-- ==== Sys2Proof/Word.lean ====
section
/-! DEFINITION. The word types of the spec (00_scope.md R9, R11): a byte, a 16-bit word and a
20-bit physical address. Their addition is already modulo 2^8, 2^16 and 2^20, as R11 has it. -/

namespace Sys2Proof

/-- An 8-bit value (R11). -/
abbrev Byte := BitVec 8

/-- A 16-bit value; `+` and `-` on it are modulo 2^16 (R11). -/
abbrev Word := BitVec 16

/-- A 20-bit physical address; `+` and `-` on it are modulo 2^20 (R11). -/
abbrev Addr20 := BitVec 20

end Sys2Proof
end

