-- ==== Sys2Proof/Config.lean ====
section
/-! DEFINITION. What is fixed for one machine (00_scope.md R9, R10): the open parameters' types and
defaults, the reset constant of SP, and the free values. A free value has no body that a proof could
see: whatever is proved holds for every value of it. -/

namespace Sys2Proof

/-- `BCD_PAIR` (R10, R71): which two BCD-adjust opcodes without an immediate are decoded. -/
inductive BcdPair where
  /-- 37 is AAA and 3F is AAS; 27 and 2F are unknown. -/
  | ascii
  /-- 27 is DAA and 2F is DAS; 37 and 3F are unknown. -/
  | decimal
deriving DecidableEq, Repr

namespace Config

/-- The default of `BCD_PAIR` (R10, D9). -/
def bcdPairDefault : BcdPair := .ascii

/-- The default of `LOAD_SEG` (R10, R251, D25). -/
def loadSeg : Word := 0x1000

/-- The default of `LOAD_OFF` (R10, R251, D25). -/
def loadOff : Word := 0x0100

/-- SP's reset value (R33). -/
def spReset : Word := 0xFFFE

/-- `MEM_INIT` (R10, R33, D6): the content of memory that nothing has written. A free draw. -/
opaque memInit : Addr20 → Byte

/-- FREE VALUE of the reference execution stage (assumption 18): a 16-bit value the spec does not
state, one for each draw. The decode block never uses it. -/
opaque freeWord : Nat → Word

end Config

end Sys2Proof
end

