-- ==== Sys2Proof/Syntax.lean ====
section
/-! DEFINITION. What an instruction is. Three things stand here, all pure data:
the operand types of 40_decode_pipeline.md R98, R100 and R102;
`Instr`, one constructor per row of spec/opcode_table.json;
`Insn`, the typed instruction value of R102 that a decode answers, and `DecodeError` (60_exceptions.md R220). -/

namespace Sys2Proof

/-- The 16-value register enumeration, in the fixed order of 10_state.md R20. -/
inductive Register where
  | al | cl | dl | bl | ah | ch | dh | bh
  | ax | cx | dx | bx | sp | bp | si | di
deriving DecidableEq, Repr

/-- The separate 4-value segment register enumeration (10_state.md R25). -/
inductive SReg where
  | es | cs | ss | ds
deriving DecidableEq, Repr

/-- Operand width (R102). -/
inductive Width where
  | byte | word
deriving DecidableEq, Repr

/-- An immediate, stored unsigned (R67, R102). -/
inductive Imm where
  | i8 (v : Byte)
  | i16 (v : Word)
deriving DecidableEq, Repr

/-- The 16 jump conditions, in index order (42_control_transfer.md R140). -/
inductive Cond where
  | o | no | b | ae | e | ne | be | a | s | ns | p | np | l | ge | le | g
deriving DecidableEq, Repr

/-- The 3 loop conditions, in index order (R142). -/
inductive LoopCond where
  | nz | z | always
deriving DecidableEq, Repr

/-- The port operand of IN and OUT (R102). -/
inductive Port where
  | fixed (p : Byte)
  | dx
deriving DecidableEq, Repr

/-- A displacement (R100): the byte of `d8` is read as i8, and sign-extended when used (R67). -/
inductive Disp where
  | noDisp
  | d8 (d : Byte)
  | d16 (d : Word)
deriving DecidableEq, Repr

/-- A memory operand (R100): one of the 24 addressing forms `8·mod + rm` of 30_encoding.md R64. -/
structure Mem where
  form : Fin 24
  disp : Disp
deriving DecidableEq, Repr

/-- A register-or-memory operand (R100). -/
inductive RM where
  | regOp (r : Register)
  | memOp (m : Mem)
deriving DecidableEq, Repr

/-- The displacement class of a ModR/M byte (R98). -/
inductive DispClass where
  | none | disp8 | disp16
deriving DecidableEq, Repr

/-- The addressing result of a ModR/M byte (R98). -/
inductive AddrResult where
  | regRef (rm : BitVec 3)
  | memForm (form : Fin 24)
deriving DecidableEq, Repr

/-- What the ModR/M decoder returns (R98). -/
structure ModRM where
  reg : BitVec 3
  dispClass : DispClass
  addr : AddrResult
deriving DecidableEq, Repr

/-- The instruction families of 30_encoding.md R69. -/
inductive Family where
  | movRI | movAcc | movRM | movSreg | movRMI | ptr | jcc | loop | ret | int | io | noop
deriving DecidableEq, Repr

/-- The instructions: one constructor per row of spec/opcode_table.json, in the table's order.
`rel` is the byte of a signed 8-bit displacement. -/
inductive Instr where
  -- data movement (41_data_movement.md)
  | movR8Imm8 (dst : Register) (imm : Byte)
  | movR16Imm16 (dst : Register) (imm : Word)
  | movAlMoffs8 (addr : Word)
  | movAxMoffs16 (addr : Word)
  | movMoffs8Al (addr : Word)
  | movMoffs16Ax (addr : Word)
  | movRm8R8 (dst : RM) (src : Register)
  | movRm16R16 (dst : RM) (src : Register)
  | movR8Rm8 (dst : Register) (src : RM)
  | movR16Rm16 (dst : Register) (src : RM)
  | movRm16Sreg (dst : RM) (src : SReg)
  | movSregRm16 (dst : SReg) (src : RM)
  | movRm8Imm8 (dst : RM) (imm : Byte)
  | movRm16Imm16 (dst : RM) (imm : Word)
  | leaR16M (dst : Register) (src : Mem)
  | lesR16M32 (dst : Register) (src : Mem)
  | ldsR16M32 (dst : Register) (src : Mem)
  -- control transfer (42_control_transfer.md)
  | jo (rel : Byte)
  | jno (rel : Byte)
  | jb (rel : Byte)
  | jae (rel : Byte)
  | je (rel : Byte)
  | jne (rel : Byte)
  | jbe (rel : Byte)
  | ja (rel : Byte)
  | js (rel : Byte)
  | jns (rel : Byte)
  | jp (rel : Byte)
  | jnp (rel : Byte)
  | jl (rel : Byte)
  | jge (rel : Byte)
  | jle (rel : Byte)
  | jg (rel : Byte)
  | loopnz (rel : Byte)
  | loopz (rel : Byte)
  | loop (rel : Byte)
  | jcxz (rel : Byte)
  | ret
  | retImm16 (adjust : Word)
  | retf
  | retfImm16 (adjust : Word)
  -- software interrupts (43_software_interrupts.md)
  | int3
  | intImm8 (vector : Byte)
  | into
  -- I/O (44_io.md)
  | inAlImm8 (port : Byte)
  | inAxImm8 (port : Byte)
  | inAlDx
  | inAxDx
  | outImm8Al (port : Byte)
  | outImm8Ax (port : Byte)
  | outDxAl
  | outDxAx
  -- flag, prefix and no-operand (45_flag_prefix.md)
  | hlt
  | nop
  | wait
  | lock
  | segEs
  | segCs
  | segSs
  | segDs
  | repne
  | rep
  | stc
  | clc
  | cmc
  | std
  | cld
  | sti
  | cli
  | cbw
  | cwd
  | lahf
  | sahf
  | pushf
  | popf
  | iret
  | xlat
  | aaa
  | aas
  | aamImm8 (base : Byte)
  | aadImm8 (base : Byte)
  | daa
  | das
deriving DecidableEq, Repr

/-- The no-operand instructions of R102. -/
inductive NoOp where
  | hlt | nop | wait | lock | clc | stc | cmc | cld | std | cli | sti
  | cbw | cwd | aaa | aas | daa | das | lahf | sahf | pushf | popf | iret | xlat
deriving DecidableEq, Repr

/-- The variants of the typed instruction value, letter for letter R102's. -/
inductive Body where
  | movRegImm (dst : Register) (imm : Imm)
  | movAccMem (w : Width) (addr : Word)
  | movMemAcc (w : Width) (addr : Word)
  | movRmReg (w : Width) (dst : RM) (src : Register)
  | movRegRm (w : Width) (dst : Register) (src : RM)
  | movRmSreg (dst : RM) (src : SReg)
  | movSregRm (dst : SReg) (src : RM)
  | movRmImm (w : Width) (dst : RM) (imm : Imm)
  | lea (dst : Register) (src : Mem)
  | les (dst : Register) (src : Mem)
  | lds (dst : Register) (src : Mem)
  | jcc (cond : Cond) (rel : Byte)
  | jcxz (rel : Byte)
  | loop (cond : LoopCond) (rel : Byte)
  | ret (far : Bool) (adjust : Option Word)
  | int3
  | int (vector : Byte)
  | into
  | inp (w : Width) (port : Port)
  | outp (w : Width) (port : Port)
  | seg (s : SReg)
  | rep (z : Bool)
  | simple (op : NoOp)
  | aam (base : Byte)
  | aad (base : Byte)
deriving DecidableEq, Repr

/-- The typed instruction value (R102): a variant with its own total encoded length in bytes. -/
structure Insn where
  body : Body
  len : Nat
deriving DecidableEq, Repr

/-- The three kinds of decode error (60_exceptions.md R220). -/
inductive DecodeErrorKind where
  | unknownOpcode | unknownSubform | invalidOperandEncoding
deriving DecidableEq, Repr

/-- A decode error (R220): its kind, the fetch address and the one or two offending bytes. -/
structure DecodeError where
  kind : DecodeErrorKind
  addr : Addr20
  bytes : List Byte
deriving DecidableEq, Repr

end Sys2Proof
end

