-- ==== Sys2Proof/WellFormed.lean ====
section
/-! DEFINITION. Which terms of `Instr` an encoding can carry (30_encoding.md R63, R101; R71 for the
BCD pair). `Instr.wf` is the check; Tests/Slice0.lean shows that each part of it refuses. -/

namespace Sys2Proof

/-- The register's width (10_state.md R20). -/
def Register.width : Register → Width
  | .al | .cl | .dl | .bl | .ah | .ch | .dh | .bh => .byte
  | .ax | .cx | .dx | .bx | .sp | .bp | .si | .di => .word

/-- The displacement belongs to the addressing form (40_decode_pipeline.md R101). -/
def Mem.wf (m : Mem) : Bool :=
  match m.disp with
  | .noDisp => decide (m.form.val < 8) && decide (m.form.val ≠ 6)
  | .d8 _ => decide (8 ≤ m.form.val) && decide (m.form.val < 16)
  | .d16 _ => decide (m.form.val = 6) || decide (16 ≤ m.form.val)

/-- A register operand has the instruction's width; a memory operand meets R101. -/
def RM.wf (w : Width) : RM → Bool
  | .regOp r => decide (r.width = w)
  | .memOp m => m.wf

/-- The term is one that an encoding of its row can carry, under the given `BCD_PAIR`. -/
def Instr.wf (p : BcdPair) : Instr → Bool
  | .movR8Imm8 dst _ => decide (dst.width = .byte)
  | .movR16Imm16 dst _ => decide (dst.width = .word)
  | .movAlMoffs8 _ | .movAxMoffs16 _ | .movMoffs8Al _ | .movMoffs16Ax _ => true
  | .movRm8R8 dst src => dst.wf .byte && decide (src.width = .byte)
  | .movRm16R16 dst src => dst.wf .word && decide (src.width = .word)
  | .movR8Rm8 dst src => decide (dst.width = .byte) && src.wf .byte
  | .movR16Rm16 dst src => decide (dst.width = .word) && src.wf .word
  | .movRm16Sreg dst _ => dst.wf .word
  | .movSregRm16 _ src => src.wf .word
  | .movRm8Imm8 dst _ => dst.wf .byte
  | .movRm16Imm16 dst _ => dst.wf .word
  | .leaR16M dst src => decide (dst.width = .word) && src.wf
  | .lesR16M32 dst src => decide (dst.width = .word) && src.wf
  | .ldsR16M32 dst src => decide (dst.width = .word) && src.wf
  | .jo _ | .jno _ | .jb _ | .jae _ | .je _ | .jne _ | .jbe _ | .ja _ => true
  | .js _ | .jns _ | .jp _ | .jnp _ | .jl _ | .jge _ | .jle _ | .jg _ => true
  | .loopnz _ | .loopz _ | .loop _ | .jcxz _ => true
  | .ret | .retImm16 _ | .retf | .retfImm16 _ => true
  | .int3 | .intImm8 _ | .into => true
  | .inAlImm8 _ | .inAxImm8 _ | .inAlDx | .inAxDx => true
  | .outImm8Al _ | .outImm8Ax _ | .outDxAl | .outDxAx => true
  | .hlt | .nop | .wait | .lock => true
  | .segEs | .segCs | .segSs | .segDs | .repne | .rep => true
  | .stc | .clc | .cmc | .std | .cld | .sti | .cli => true
  | .cbw | .cwd | .lahf | .sahf | .pushf | .popf | .iret | .xlat => true
  | .aamImm8 _ | .aadImm8 _ => true
  | .aaa | .aas => decide (p = .ascii)
  | .daa | .das => decide (p = .decimal)

end Sys2Proof
end

