-- ==== Sys2Proof/Decode.lean ====
section
/-! DEFINITION. The decoder (30_encoding.md, 40_decode_pipeline.md R92-R105, the Decode lines of files 41-45)
and, after it, an encoder written from the same encoding tables. The decoder is total: it takes the
instruction's bytes as a function `B` (R93) and answers an instruction or a decode error of R220.
It reads no state. -/

namespace Sys2Proof

/-! ### Bytes, registers and enumerations by number -/

/-- `W(k) = {B(k+1), B(k)}`: a little-endian word from its low and its high byte (R42, R67, R93). -/
def wordOf (lo hi : Byte) : Word := hi ++ lo

/-- `v[7:0]` (R44). -/
def loByte (v : Word) : Byte := v.extractLsb' 0 8

/-- `v[15:8]` (R44). -/
def hiByte (v : Word) : Byte := v.extractLsb' 8 8

/-- The explicit total mapping from a small integer to a register (10_state.md R20, R21). -/
def Register.ofIndex (i : Fin 16) : Register :=
  match i.val with
  | 0 => .al | 1 => .cl | 2 => .dl | 3 => .bl | 4 => .ah | 5 => .ch | 6 => .dh | 7 => .bh
  | 8 => .ax | 9 => .cx | 10 => .dx | 11 => .bx | 12 => .sp | 13 => .bp | 14 => .si | _ => .di

/-- A register's index in the enumeration of R20. -/
def Register.index : Register → Fin 16
  | .al => 0 | .cl => 1 | .dl => 2 | .bl => 3 | .ah => 4 | .ch => 5 | .dh => 6 | .bh => 7
  | .ax => 8 | .cx => 9 | .dx => 10 | .bx => 11 | .sp => 12 | .bp => 13 | .si => 14 | .di => 15

/-- `Reg(w, r) = Reg(8·w + r)` (R21). -/
def regOf (w : Width) (r : BitVec 3) : Register :=
  match w with
  | .byte => .ofIndex (Fin.ofNat 16 r.toNat)
  | .word => .ofIndex (Fin.ofNat 16 (8 + r.toNat))

/-- The 3-bit register number within its width (R21 read backwards). -/
def Register.num (r : Register) : BitVec 3 := BitVec.ofNat 3 r.index.val

/-- `SReg` (10_state.md R25); the field values 4-7 name no segment register (30_encoding.md R63). -/
def SReg.ofNum (n : BitVec 3) : Option SReg :=
  match n.toNat with
  | 0 => some .es | 1 => some .cs | 2 => some .ss | 3 => some .ds | _ => none

/-- A segment register's number (R25). -/
def SReg.num : SReg → BitVec 3
  | .es => 0 | .cs => 1 | .ss => 2 | .ds => 3

/-- The condition of an index 0..15 (42_control_transfer.md R140). -/
def Cond.ofIndex (n : Nat) : Cond :=
  match n with
  | 0 => .o | 1 => .no | 2 => .b | 3 => .ae | 4 => .e | 5 => .ne | 6 => .be | 7 => .a
  | 8 => .s | 9 => .ns | 10 => .p | 11 => .np | 12 => .l | 13 => .ge | 14 => .le | _ => .g

/-! ### Opcode and ModR/M fields -/

/-- `w = op[0]` (30_encoding.md R66). -/
def opWidth (op : Byte) : Width := if op.getLsbD 0 then .word else .byte

/-- `mod = m[7:6]` (R62). -/
def modField (m : Byte) : BitVec 2 := m.extractLsb' 6 2

/-- `reg = m[5:3]` (R62). -/
def regField (m : Byte) : BitVec 3 := m.extractLsb' 3 3

/-- `rm = m[2:0]` (R62). -/
def rmField (m : Byte) : BitVec 3 := m.extractLsb' 0 3

/-- The ModR/M decoder, a pure function of one byte (40_decode_pipeline.md R98), with the direct
address mod = 00, rm = 110 decoded explicitly. -/
def modRM (m : Byte) : ModRM :=
  let reg := regField m
  let rm := rmField m
  match (modField m).toNat with
  | 0 =>
    if rm = 0b110 then ⟨reg, .disp16, .memForm 6⟩
    else ⟨reg, .none, .memForm (Fin.ofNat 24 rm.toNat)⟩
  | 1 => ⟨reg, .disp8, .memForm (Fin.ofNat 24 (8 + rm.toNat))⟩
  | 2 => ⟨reg, .disp16, .memForm (Fin.ofNat 24 (16 + rm.toNat))⟩
  | _ => ⟨reg, .none, .regRef rm⟩

/-- The r/m operand reader (R100): the ModR/M byte at offset 1, the displacement right after it.
It returns the reg field and the operand. -/
def readRM (w : Width) (B : Nat → Byte) : BitVec 3 × RM :=
  let m := modRM (B 1)
  match m.addr with
  | .regRef r => (m.reg, .regOp (regOf w r))
  | .memForm f =>
    match m.dispClass with
    | .none => (m.reg, .memOp ⟨f, .noDisp⟩)
    | .disp8 => (m.reg, .memOp ⟨f, .d8 (B 2)⟩)
    | .disp16 => (m.reg, .memOp ⟨f, .d16 (wordOf (B 2) (B 3))⟩)

/-! ### Lengths (30_encoding.md R65, R68) -/

/-- The displacement's length in bytes (R65). -/
def Disp.len : Disp → Nat
  | .noDisp => 0
  | .d8 _ => 1
  | .d16 _ => 2

/-- `dlen` of a memory operand (R65). -/
def Mem.dlen (m : Mem) : Nat := m.disp.len

/-- `dlen` of an r/m operand (R65): a register operand has no displacement. -/
def RM.dlen : RM → Nat
  | .regOp _ => 0
  | .memOp m => m.dlen

/-- The instruction's total length in bytes (R68). -/
def Instr.len : Instr → Nat
  | .movR8Imm8 _ _ => 2
  | .movR16Imm16 _ _ => 3
  | .movAlMoffs8 _ | .movAxMoffs16 _ | .movMoffs8Al _ | .movMoffs16Ax _ => 3
  | .movRm8R8 rm _ | .movRm16R16 rm _ => 2 + rm.dlen
  | .movR8Rm8 _ rm | .movR16Rm16 _ rm => 2 + rm.dlen
  | .movRm16Sreg rm _ | .movSregRm16 _ rm => 2 + rm.dlen
  | .movRm8Imm8 rm _ => 3 + rm.dlen
  | .movRm16Imm16 rm _ => 4 + rm.dlen
  | .leaR16M _ m | .lesR16M32 _ m | .ldsR16M32 _ m => 2 + m.dlen
  | .jo _ | .jno _ | .jb _ | .jae _ | .je _ | .jne _ | .jbe _ | .ja _ => 2
  | .js _ | .jns _ | .jp _ | .jnp _ | .jl _ | .jge _ | .jle _ | .jg _ => 2
  | .loopnz _ | .loopz _ | .loop _ | .jcxz _ => 2
  | .ret | .retf => 1
  | .retImm16 _ | .retfImm16 _ => 3
  | .int3 | .into => 1
  | .intImm8 _ => 2
  | .inAlImm8 _ | .inAxImm8 _ | .outImm8Al _ | .outImm8Ax _ => 2
  | .inAlDx | .inAxDx | .outDxAl | .outDxAx => 1
  | .hlt | .nop | .wait | .lock => 1
  | .segEs | .segCs | .segSs | .segDs | .repne | .rep => 1
  | .stc | .clc | .cmc | .std | .cld | .sti | .cli => 1
  | .cbw | .cwd | .lahf | .sahf | .pushf | .popf | .iret | .xlat => 1
  | .aaa | .aas | .daa | .das => 1
  | .aamImm8 _ | .aadImm8 _ => 2

/-! ### The opcode map (30_encoding.md R69-R71) -/

/-- The one-byte no-operand instructions (45_flag_prefix.md), with `BCD_PAIR` applied (R71). -/
def oneByteNoOp (p : BcdPair) (op : Byte) : Option Instr :=
  match op.toNat with
  | 0xF4 => some .hlt
  | 0x90 => some .nop
  | 0x9B => some .wait
  | 0xF0 => some .lock
  | 0x26 => some .segEs
  | 0x2E => some .segCs
  | 0x36 => some .segSs
  | 0x3E => some .segDs
  | 0xF2 => some .repne
  | 0xF3 => some .rep
  | 0xF9 => some .stc
  | 0xF8 => some .clc
  | 0xF5 => some .cmc
  | 0xFD => some .std
  | 0xFC => some .cld
  | 0xFB => some .sti
  | 0xFA => some .cli
  | 0x98 => some .cbw
  | 0x99 => some .cwd
  | 0x9F => some .lahf
  | 0x9E => some .sahf
  | 0x9C => some .pushf
  | 0x9D => some .popf
  | 0xCF => some .iret
  | 0xD7 => some .xlat
  | 0x37 => if p = .ascii then some .aaa else none
  | 0x3F => if p = .ascii then some .aas else none
  | 0x27 => if p = .decimal then some .daa else none
  | 0x2F => if p = .decimal then some .das else none
  | _ => none

/-- `DispatchMap(op)` with `BCD_PAIR` applied (R69, R71, R92): the family of a first byte, or none. -/
def dispatchMap (p : BcdPair) (op : Byte) : Option Family :=
  let n := op.toNat
  if 0xB0 ≤ n ∧ n ≤ 0xBF then some .movRI
  else if 0xA0 ≤ n ∧ n ≤ 0xA3 then some .movAcc
  else if 0x88 ≤ n ∧ n ≤ 0x8B then some .movRM
  else if n = 0x8C ∨ n = 0x8E then some .movSreg
  else if n = 0xC6 ∨ n = 0xC7 then some .movRMI
  else if n = 0x8D ∨ n = 0xC4 ∨ n = 0xC5 then some .ptr
  else if 0x70 ≤ n ∧ n ≤ 0x7F then some .jcc
  else if 0xE0 ≤ n ∧ n ≤ 0xE3 then some .loop
  else if n = 0xC2 ∨ n = 0xC3 ∨ n = 0xCA ∨ n = 0xCB then some .ret
  else if 0xCC ≤ n ∧ n ≤ 0xCE then some .int
  else if (0xE4 ≤ n ∧ n ≤ 0xE7) ∨ (0xEC ≤ n ∧ n ≤ 0xEF) then some .io
  else if n = 0xD4 ∨ n = 0xD5 ∨ (oneByteNoOp p op).isSome then some .noop
  else none

/-! ### The family decoders (40_decode_pipeline.md R92, R105; files 41-45)

Each re-reads the opcode byte `B 0` and branches on it exactly. The last arm of a family's match is
not reached from `decode`, since the dispatch map sends no other opcode there; it answers
UnknownOpcode (assumption 10). -/

/-- The answer of a decode (R90): an instruction or a decode error. -/
inductive DecodeResult where
  | ok (i : Instr)
  | err (e : DecodeError)
deriving DecidableEq, Repr

/-- `UnknownOpcode` found on the opcode byte (R221, first case). -/
def unknownOpcode (fa : Addr20) (B : Nat → Byte) : DecodeResult :=
  .err ⟨.unknownOpcode, fa, [B 0]⟩

/-- An error found on the ModR/M byte, with the bytes `[B(0), B(1)]` (R72, R220). -/
def modRMError (kind : DecodeErrorKind) (fa : Addr20) (B : Nat → Byte) : DecodeResult :=
  .err ⟨kind, fa, [B 0, B 1]⟩

/-- MOV reg, imm (R120). -/
def decodeMovRI (B : Nat → Byte) : DecodeResult :=
  let op := (B 0).toNat
  let dst := Register.ofIndex (Fin.ofNat 16 (op - 0xB0))
  if op ≤ 0xB7 then .ok (.movR8Imm8 dst (B 1))
  else .ok (.movR16Imm16 dst (wordOf (B 1) (B 2)))

/-- MOV accumulator, moffs and the reverse (R121, R122). -/
def decodeMovAcc (fa : Addr20) (B : Nat → Byte) : DecodeResult :=
  let addr := wordOf (B 1) (B 2)
  match (B 0).toNat with
  | 0xA0 => .ok (.movAlMoffs8 addr)
  | 0xA1 => .ok (.movAxMoffs16 addr)
  | 0xA2 => .ok (.movMoffs8Al addr)
  | 0xA3 => .ok (.movMoffs16Ax addr)
  | _ => unknownOpcode fa B

/-- MOV r/m, reg and MOV reg, r/m (R123, R124): `w = op[0]`, `d = op[1]`. -/
def decodeMovRM (B : Nat → Byte) : DecodeResult :=
  let w := opWidth (B 0)
  let r := readRM w B
  match w, (B 0).getLsbD 1 with
  | .byte, false => .ok (.movRm8R8 r.2 (regOf .byte r.1))
  | .word, false => .ok (.movRm16R16 r.2 (regOf .word r.1))
  | .byte, true => .ok (.movR8Rm8 (regOf .byte r.1) r.2)
  | .word, true => .ok (.movR16Rm16 (regOf .word r.1) r.2)

/-- MOV r/m16, sreg (8C) and MOV sreg, r/m16 (8E) (R125, R126, R222). -/
def decodeMovSreg (fa : Addr20) (B : Nat → Byte) : DecodeResult :=
  let r := readRM .word B
  match SReg.ofNum r.1 with
  | none => modRMError .unknownSubform fa B
  | some sr => if (B 0).getLsbD 1 then .ok (.movSregRm16 sr r.2) else .ok (.movRm16Sreg r.2 sr)

/-- MOV r/m, imm (R127, R221): the immediate follows the displacement. -/
def decodeMovRMI (fa : Addr20) (B : Nat → Byte) : DecodeResult :=
  let w := opWidth (B 0)
  let r := readRM w B
  let k := 2 + r.2.dlen
  if r.1 ≠ 0 then modRMError .unknownOpcode fa B
  else
    match w with
    | .byte => .ok (.movRm8Imm8 r.2 (B k))
    | .word => .ok (.movRm16Imm16 r.2 (wordOf (B k) (B (k + 1))))

/-- LEA, LES and LDS: memory operands only (R128-R131, R223). -/
def decodePtr (fa : Addr20) (B : Nat → Byte) : DecodeResult :=
  let r := readRM .word B
  match r.2 with
  | .regOp _ => modRMError .invalidOperandEncoding fa B
  | .memOp m =>
    match (B 0).toNat with
    | 0x8D => .ok (.leaR16M (regOf .word r.1) m)
    | 0xC4 => .ok (.lesR16M32 (regOf .word r.1) m)
    | 0xC5 => .ok (.ldsR16M32 (regOf .word r.1) m)
    | _ => unknownOpcode fa B

/-- The jump of a condition (R140, R141). -/
def jccInstr (rel : Byte) : Cond → Instr
  | .o => .jo rel | .no => .jno rel | .b => .jb rel | .ae => .jae rel
  | .e => .je rel | .ne => .jne rel | .be => .jbe rel | .a => .ja rel
  | .s => .js rel | .ns => .jns rel | .p => .jp rel | .np => .jnp rel
  | .l => .jl rel | .ge => .jge rel | .le => .jle rel | .g => .jg rel

/-- Jcc rel8 (R141): the condition is indexed by `op - 0x70`. -/
def decodeJcc (B : Nat → Byte) : DecodeResult :=
  .ok (jccInstr (B 1) (.ofIndex ((B 0).toNat - 0x70)))

/-- LOOPcc rel8 and JCXZ rel8 (R142-R144). -/
def decodeLoop (fa : Addr20) (B : Nat → Byte) : DecodeResult :=
  match (B 0).toNat with
  | 0xE0 => .ok (.loopnz (B 1))
  | 0xE1 => .ok (.loopz (B 1))
  | 0xE2 => .ok (.loop (B 1))
  | 0xE3 => .ok (.jcxz (B 1))
  | _ => unknownOpcode fa B

/-- RET and RETF, with and without a stack adjust (R145-R148). -/
def decodeRet (fa : Addr20) (B : Nat → Byte) : DecodeResult :=
  match (B 0).toNat with
  | 0xC3 => .ok .ret
  | 0xC2 => .ok (.retImm16 (wordOf (B 1) (B 2)))
  | 0xCB => .ok .retf
  | 0xCA => .ok (.retfImm16 (wordOf (B 1) (B 2)))
  | _ => unknownOpcode fa B

/-- INT3, INT imm8 and INTO (R160-R162). -/
def decodeInt (fa : Addr20) (B : Nat → Byte) : DecodeResult :=
  match (B 0).toNat with
  | 0xCC => .ok .int3
  | 0xCD => .ok (.intImm8 (B 1))
  | 0xCE => .ok .into
  | _ => unknownOpcode fa B

/-- IN and OUT (R170-R177). -/
def decodeIo (fa : Addr20) (B : Nat → Byte) : DecodeResult :=
  match (B 0).toNat with
  | 0xE4 => .ok (.inAlImm8 (B 1))
  | 0xE5 => .ok (.inAxImm8 (B 1))
  | 0xE6 => .ok (.outImm8Al (B 1))
  | 0xE7 => .ok (.outImm8Ax (B 1))
  | 0xEC => .ok .inAlDx
  | 0xED => .ok .inAxDx
  | 0xEE => .ok .outDxAl
  | 0xEF => .ok .outDxAx
  | _ => unknownOpcode fa B

/-- The flag, prefix and no-operand family (R180-R211): AAM and AAD take a base byte. -/
def decodeNoOp (p : BcdPair) (fa : Addr20) (B : Nat → Byte) : DecodeResult :=
  match oneByteNoOp p (B 0) with
  | some i => .ok i
  | none =>
    match (B 0).toNat with
    | 0xD4 => .ok (.aamImm8 (B 1))
    | 0xD5 => .ok (.aadImm8 (B 1))
    | _ => unknownOpcode fa B

/-- `FamilyDecode(fam, op)` (R92). -/
def familyDecode (p : BcdPair) (fam : Family) (fa : Addr20) (B : Nat → Byte) : DecodeResult :=
  match fam with
  | .movRI => decodeMovRI B
  | .movAcc => decodeMovAcc fa B
  | .movRM => decodeMovRM B
  | .movSreg => decodeMovSreg fa B
  | .movRMI => decodeMovRMI fa B
  | .ptr => decodePtr fa B
  | .jcc => decodeJcc B
  | .loop => decodeLoop fa B
  | .ret => decodeRet fa B
  | .int => decodeInt fa B
  | .io => decodeIo fa B
  | .noop => decodeNoOp p fa B

/-- The decoder (R92): dispatch on the first byte, then the family decoder. `B k` is the byte at
offset k from the fetch address `fa`; `fa` itself only labels an error. -/
def decode (p : BcdPair) (fa : Addr20) (B : Nat → Byte) : DecodeResult :=
  match dispatchMap p (B 0) with
  | none => unknownOpcode fa B
  | some fam => familyDecode p fam fa B

/-! ### The encoder (30_encoding.md R60-R67) -/

/-- A 16-bit field, little-endian (R67). -/
def wordBytes (v : Word) : List Byte := [loByte v, hiByte v]

/-- The displacement's bytes (R60, R67). -/
def Disp.bytes : Disp → List Byte
  | .noDisp => []
  | .d8 d => [d]
  | .d16 d => wordBytes d

/-- A ModR/M byte from its fields (R62). -/
def modRMByte (mod : BitVec 2) (reg rm : BitVec 3) : Byte := mod ++ (reg ++ rm)

/-- The ModR/M byte and the displacement of a memory operand: `form = 8·mod + rm` (R64). -/
def Mem.bytes (reg : BitVec 3) (m : Mem) : List Byte :=
  modRMByte (BitVec.ofNat 2 (m.form.val / 8)) reg (BitVec.ofNat 3 (m.form.val % 8)) :: m.disp.bytes

/-- The ModR/M byte and the displacement of an r/m operand (R62, R64, R65). -/
def RM.bytes (reg : BitVec 3) : RM → List Byte
  | .regOp r => [modRMByte 0b11 reg r.num]
  | .memOp m => m.bytes reg

/-- The bytes of an instruction (R60, R61, R66, R69). -/
def encode : Instr → List Byte
  | .movR8Imm8 dst imm => [BitVec.ofNat 8 (0xB0 + dst.num.toNat), imm]
  | .movR16Imm16 dst imm => BitVec.ofNat 8 (0xB8 + dst.num.toNat) :: wordBytes imm
  | .movAlMoffs8 addr => 0xA0 :: wordBytes addr
  | .movAxMoffs16 addr => 0xA1 :: wordBytes addr
  | .movMoffs8Al addr => 0xA2 :: wordBytes addr
  | .movMoffs16Ax addr => 0xA3 :: wordBytes addr
  | .movRm8R8 dst src => 0x88 :: dst.bytes src.num
  | .movRm16R16 dst src => 0x89 :: dst.bytes src.num
  | .movR8Rm8 dst src => 0x8A :: src.bytes dst.num
  | .movR16Rm16 dst src => 0x8B :: src.bytes dst.num
  | .movRm16Sreg dst src => 0x8C :: dst.bytes src.num
  | .movSregRm16 dst src => 0x8E :: src.bytes dst.num
  | .movRm8Imm8 dst imm => 0xC6 :: (dst.bytes 0 ++ [imm])
  | .movRm16Imm16 dst imm => 0xC7 :: (dst.bytes 0 ++ wordBytes imm)
  | .leaR16M dst src => 0x8D :: src.bytes dst.num
  | .lesR16M32 dst src => 0xC4 :: src.bytes dst.num
  | .ldsR16M32 dst src => 0xC5 :: src.bytes dst.num
  | .jo rel => [0x70, rel]
  | .jno rel => [0x71, rel]
  | .jb rel => [0x72, rel]
  | .jae rel => [0x73, rel]
  | .je rel => [0x74, rel]
  | .jne rel => [0x75, rel]
  | .jbe rel => [0x76, rel]
  | .ja rel => [0x77, rel]
  | .js rel => [0x78, rel]
  | .jns rel => [0x79, rel]
  | .jp rel => [0x7A, rel]
  | .jnp rel => [0x7B, rel]
  | .jl rel => [0x7C, rel]
  | .jge rel => [0x7D, rel]
  | .jle rel => [0x7E, rel]
  | .jg rel => [0x7F, rel]
  | .loopnz rel => [0xE0, rel]
  | .loopz rel => [0xE1, rel]
  | .loop rel => [0xE2, rel]
  | .jcxz rel => [0xE3, rel]
  | .ret => [0xC3]
  | .retImm16 adjust => 0xC2 :: wordBytes adjust
  | .retf => [0xCB]
  | .retfImm16 adjust => 0xCA :: wordBytes adjust
  | .int3 => [0xCC]
  | .intImm8 vector => [0xCD, vector]
  | .into => [0xCE]
  | .inAlImm8 port => [0xE4, port]
  | .inAxImm8 port => [0xE5, port]
  | .inAlDx => [0xEC]
  | .inAxDx => [0xED]
  | .outImm8Al port => [0xE6, port]
  | .outImm8Ax port => [0xE7, port]
  | .outDxAl => [0xEE]
  | .outDxAx => [0xEF]
  | .hlt => [0xF4]
  | .nop => [0x90]
  | .wait => [0x9B]
  | .lock => [0xF0]
  | .segEs => [0x26]
  | .segCs => [0x2E]
  | .segSs => [0x36]
  | .segDs => [0x3E]
  | .repne => [0xF2]
  | .rep => [0xF3]
  | .stc => [0xF9]
  | .clc => [0xF8]
  | .cmc => [0xF5]
  | .std => [0xFD]
  | .cld => [0xFC]
  | .sti => [0xFB]
  | .cli => [0xFA]
  | .cbw => [0x98]
  | .cwd => [0x99]
  | .lahf => [0x9F]
  | .sahf => [0x9E]
  | .pushf => [0x9C]
  | .popf => [0x9D]
  | .iret => [0xCF]
  | .xlat => [0xD7]
  | .aaa => [0x37]
  | .aas => [0x3F]
  | .aamImm8 base => [0xD4, base]
  | .aadImm8 base => [0xD5, base]
  | .daa => [0x27]
  | .das => [0x2F]

/-! ### Decoding a list of bytes, and the opcode table's words -/

/-- The longest instruction is 6 bytes (R68). -/
def maxLen : Nat := 6

/-- Byte k of a list; past its end, zero. -/
def listByte (l : List Byte) (k : Nat) : Byte := l.getD k 0

/-- Byte k of an instruction given as a number of `nbits` bits whose byte k is bits 8k+7..8k; every
bit from `nbits` up is zero. -/
def tableByte (nbits w k : Nat) : Byte :=
  BitVec.ofNat 8 ((w % 2 ^ nbits) >>> (8 * k))

/-- The `BCD_PAIR` under which a table word is tried: the given one, unless only the other decodes
it (assumption 4). -/
def tablePair (p : BcdPair) (nbits w : Nat) : BcdPair :=
  match decode p 0 (tableByte nbits w), p with
  | .ok _, _ => p
  | .err _, .ascii => .decimal
  | .err _, .decimal => .ascii

/-- The instruction the decoder reads from a word numbered as spec/opcode_table.json numbers it. DAA
and DAS are in the set only with `BCD_PAIR = DECIMAL`, so that value is tried when the default
refuses the word (assumption 4). -/
def decodeTableWord (nbits w : Nat) : Option Instr :=
  match decode (tablePair Config.bcdPairDefault nbits w) 0 (tableByte nbits w) with
  | .ok i => some i
  | .err _ => none

end Sys2Proof
end

