-- ==== Sys2Proof/Machine/State.lean ====
section
/-! DEFINITION. The machine's state as plain data (10_state.md, 20_memory.md R41), the reasons a step can
stop, and the state at CPU construction (R33, R250). INVENTORY.md lists every field with its rule. -/

namespace Sys2Proof.Machine

/-- The bytes that something has written since construction, addresses strictly rising (`Memory.wf`).
An address not listed holds its `MEM_INIT` byte (assumption 5). -/
abbrev Memory := List Host.Cell

/-- What stands on the port `decode_rsp` (40_decode_pipeline.md R90). -/
inductive Rsp where
  /-- no request has been answered yet -/
  | idle
  /-- `Ok(I)` -/
  | ok (v : Insn)
  /-- `Err(E)` -/
  | err (e : DecodeError)
deriving DecidableEq, Repr

/-- The state. The first fourteen fields and `mem` are the architectural state (R20, R25, R26, R28,
R41); `bcdPair` is the machine's open parameter (R10, assumption 4); `rsp` is the answer port
(R90, assumption 3), which no transaction reads. -/
structure State where
  ax : Word
  bx : Word
  cx : Word
  dx : Word
  sp : Word
  bp : Word
  si : Word
  di : Word
  cs : Word
  ds : Word
  es : Word
  ss : Word
  ip : Word
  flags : Word
  mem : Memory
  bcdPair : BcdPair
  rsp : Rsp
deriving DecidableEq, Repr

/-- Why a machine stops. The decode block never stops (60_exceptions.md R224, R225, R236). -/
inductive Fault where
  /-- The surrounding tool stops single-stepping on a decode error (R229, R237). Raised by
  `StageState.step` of the reference execution stage, never by the block's `step`. Safe: nothing is
  claimed of what follows. -/
  | decodeError (e : DecodeError)
deriving DecidableEq, Repr

/-- Why an instruction has no meaning. -/
inductive Refusal where
  /-- Raised by an arm of `exec` whose instruction is not modelled yet; no arm does. Safe: the run
  stops there. -/
  | notModelled (mnemonic : String)
deriving DecidableEq, Repr

/-- The three outcomes of one step. -/
abbrev Answer := Host.Outcome State Fault Refusal

/-- The state at CPU construction (R33, R250): every register zero but SP, no byte written. -/
def State.reset : State where
  ax := 0
  bx := 0
  cx := 0
  dx := 0
  sp := Config.spReset
  bp := 0
  si := 0
  di := 0
  cs := 0
  ds := 0
  es := 0
  ss := 0
  ip := 0
  flags := 0
  mem := []
  bcdPair := Config.bcdPairDefault
  rsp := .idle

end Sys2Proof.Machine
end

