-- ==== Sys2Proof/Machine/Flags.lean ====
section
/-! DEFINITION. The flags word (10_state.md R28, R29) and every flag test the spec gives: the condition
column of 42_control_transfer.md R140 and R142 and the flag moves of 45_flag_prefix.md. The decode
block uses none of them; the register accessors and the reference execution stage do. -/

namespace Sys2Proof.Machine

/-- The nine named flags (R28). -/
inductive Flag where
  | cf | pf | af | zf | sf | tf | intf | df | ovf
deriving DecidableEq, Repr

/-- A flag's bit position (R28). `intf` is IF and `ovf` is OF. -/
def Flag.bit : Flag → Nat
  | .cf => 0
  | .pf => 2
  | .af => 4
  | .zf => 6
  | .sf => 7
  | .tf => 8
  | .intf => 9
  | .df => 10
  | .ovf => 11

/-- The word with only this flag's bit set. -/
def Flag.mask (f : Flag) : Word := BitVec.twoPow 16 f.bit

/-- Test a flag of a flags word (R29). -/
def flagGet (w : Word) (f : Flag) : Bool := w.getLsbD f.bit

/-- Set a flag of a flags word to a value; no other bit changes (R29). -/
def flagPut (w : Word) (f : Flag) (b : Bool) : Word :=
  if b then w ||| f.mask else w &&& ~~~f.mask

/-- The flag test of a jump condition (R140). -/
def condHolds (c : Cond) (w : Word) : Bool :=
  match c with
  | .o => flagGet w .ovf
  | .no => !flagGet w .ovf
  | .b => flagGet w .cf
  | .ae => !flagGet w .cf
  | .e => flagGet w .zf
  | .ne => !flagGet w .zf
  | .be => flagGet w .cf || flagGet w .zf
  | .a => !flagGet w .cf && !flagGet w .zf
  | .s => flagGet w .sf
  | .ns => !flagGet w .sf
  | .p => flagGet w .pf
  | .np => !flagGet w .pf
  | .l => flagGet w .sf != flagGet w .ovf
  | .ge => flagGet w .sf == flagGet w .ovf
  | .le => flagGet w .zf || (flagGet w .sf != flagGet w .ovf)
  | .g => !flagGet w .zf && (flagGet w .sf == flagGet w .ovf)

/-- The test of a loop condition on the decremented count and the flags (R142). -/
def loopCondHolds (c : LoopCond) (count flags : Word) : Bool :=
  match c with
  | .nz => decide (count ≠ 0) && !flagGet flags .zf
  | .z => decide (count ≠ 0) && flagGet flags .zf
  | .always => decide (count ≠ 0)

/-- The bits SF, ZF, AF, PF and CF, which SAHF loads (R204). -/
def sahfMask : Word := 0x00D5

/-- The flags after SAHF: five bits from AH, the rest kept (R204). -/
def sahfFlags (flags : Word) (ah : Byte) : Word :=
  (flags &&& ~~~sahfMask) ||| (ah.setWidth 16 &&& sahfMask)

/-- The six arithmetic flags CF, PF, AF, ZF, SF, OF: what a BCD adjust leaves open (assumption 18). -/
def arithMask : Word := 0x08D5

/-- The flags with the six arithmetic ones taken from another word. -/
def arithFlags (flags free : Word) : Word :=
  (flags &&& ~~~arithMask) ||| (free &&& arithMask)

/-- FLAGS after entering an interrupt: IF and TF cleared (R161). -/
def interruptFlags (flags : Word) : Word := flagPut (flagPut flags .intf false) .tf false

end Sys2Proof.Machine
end

