-- ==== Sys2Proof/Machine/Ops.lean ====
section
/-! DEFINITION. The named operations over memory and registers: memory reads and writes (20_memory.md
R40-R46), register accessors (10_state.md R22, R23, R29), the stack services (R47, R48), the loader
(70_reset_and_hazards.md R251), the fetch primitive (R93) and the two ways a decode transaction ends
(R92): `emit`, and `raiseDecodeError`, which is all the block has in place of taking an exception
(60_exceptions.md R228). -/

namespace Sys2Proof.Machine

/-! ### The memory list -/

/-- The written byte at an address, if one was written. -/
def Memory.find : Memory → Nat → Option Byte
  | [], _ => none
  | c :: m, a => if c.1 = a then some c.2 else Memory.find m a

/-- Write one byte, keeping the addresses strictly rising. -/
def Memory.set : Memory → Nat → Byte → Memory
  | [], a, v => [(a, v)]
  | c :: m, a, v =>
    if a < c.1 then (a, v) :: c :: m
    else if a = c.1 then (a, v) :: m
    else c :: Memory.set m a v

/-- The addresses are at least `lo` and strictly rising. -/
def Memory.risingFrom : Nat → Memory → Bool
  | _, [] => true
  | lo, c :: m => decide (lo ≤ c.1) && Memory.risingFrom (c.1 + 1) m

/-- The canonical form: addresses strictly rising, all below 2^20 (R41). -/
def Memory.wf (m : Memory) : Bool :=
  Memory.risingFrom 0 m && m.all (fun c => decide (c.1 < 2 ^ 20))

/-! ### Memory accesses -/

/-- `PA(seg, off)`: `seg·16 + off`, truncated to 20 bits (R40). -/
def PA (seg off : Word) : Addr20 := (seg.setWidth 20 <<< 4) + off.setWidth 20

/-- `MemRead(a, 1)` (R41). A byte nothing has written is its `MEM_INIT` byte (R33). -/
def State.memRead8 (s : State) (a : Addr20) : Byte :=
  (s.mem.find a.toNat).getD (Config.memInit a)

/-- `MemRead(a, 2)`: little-endian, the second address modulo 2^20 (R42). -/
def State.memRead16 (s : State) (a : Addr20) : Word := wordOf (s.memRead8 a) (s.memRead8 (a + 1))

/-- `MemWrite(a, 1, v)` (R43). -/
def State.memWrite8 (s : State) (a : Addr20) (v : Byte) : State :=
  { s with mem := Memory.set s.mem a.toNat v }

/-- `MemWrite(a, 2, v)`: the low byte at `a`, then the high byte at `a + 1` modulo 2^20 (R44). -/
def State.memWrite16 (s : State) (a : Addr20) (v : Word) : State :=
  (s.memWrite8 a (loByte v)).memWrite8 (a + 1) (hiByte v)

/-- Write a list of bytes to consecutive addresses modulo 2^20 (R251). -/
def State.storeBytes (s : State) (a : Addr20) : List Byte → State
  | [] => s
  | b :: l => (s.memWrite8 a b).storeBytes (a + 1) l

/-! ### Register accessors -/

/-- Write the low half of a register: mask and or (R22). -/
def putLo (x : Word) (v : Byte) : Word := (x &&& 0xFF00) ||| v.setWidth 16

/-- Write the high half of a register: mask and or (R22). -/
def putHi (x : Word) (v : Byte) : Word := (x &&& 0x00FF) ||| (v.setWidth 16 <<< 8)

/-- `x[r]`: a 16-bit register, or an 8-bit half zero-extended (R20, R22). -/
def State.getReg (s : State) : Register → Word
  | .al => (loByte s.ax).setWidth 16
  | .cl => (loByte s.cx).setWidth 16
  | .dl => (loByte s.dx).setWidth 16
  | .bl => (loByte s.bx).setWidth 16
  | .ah => (hiByte s.ax).setWidth 16
  | .ch => (hiByte s.cx).setWidth 16
  | .dh => (hiByte s.dx).setWidth 16
  | .bh => (hiByte s.bx).setWidth 16
  | .ax => s.ax
  | .cx => s.cx
  | .dx => s.dx
  | .bx => s.bx
  | .sp => s.sp
  | .bp => s.bp
  | .si => s.si
  | .di => s.di

/-- `x[r] <- v` (R22, R23): an 8-bit half takes the low byte of `v` and leaves the other half
(assumption 8); a 16-bit register takes all of `v`. -/
def State.setReg (s : State) (r : Register) (v : Word) : State :=
  match r with
  | .al => { s with ax := putLo s.ax (loByte v) }
  | .cl => { s with cx := putLo s.cx (loByte v) }
  | .dl => { s with dx := putLo s.dx (loByte v) }
  | .bl => { s with bx := putLo s.bx (loByte v) }
  | .ah => { s with ax := putHi s.ax (loByte v) }
  | .ch => { s with cx := putHi s.cx (loByte v) }
  | .dh => { s with dx := putHi s.dx (loByte v) }
  | .bh => { s with bx := putHi s.bx (loByte v) }
  | .ax => { s with ax := v }
  | .cx => { s with cx := v }
  | .dx => { s with dx := v }
  | .bx => { s with bx := v }
  | .sp => { s with sp := v }
  | .bp => { s with bp := v }
  | .si => { s with si := v }
  | .di => { s with di := v }

/-- Read a segment register (R25). -/
def State.getSReg (s : State) : SReg → Word
  | .es => s.es
  | .cs => s.cs
  | .ss => s.ss
  | .ds => s.ds

/-- Write a segment register: all 16 bits (R23). -/
def State.setSReg (s : State) (r : SReg) (v : Word) : State :=
  match r with
  | .es => { s with es := v }
  | .cs => { s with cs := v }
  | .ss => { s with ss := v }
  | .ds => { s with ds := v }

/-- Write IP: all 16 bits (R23). -/
def State.setIp (s : State) (v : Word) : State := { s with ip := v }

/-- Write FLAGS, the opaque 16-bit word, unused bits included (R29). -/
def State.setFlags (s : State) (v : Word) : State := { s with flags := v }

/-- Test a named flag (R29). -/
def State.getFlag (s : State) (f : Flag) : Bool := flagGet s.flags f

/-- Set or clear a named flag (R29). -/
def State.setFlag (s : State) (f : Flag) (b : Bool) : State := s.setFlags (flagPut s.flags f b)

/-! ### Stack services -/

/-- `push(v)`: SP is decremented by 2, then the word is written at SS:SP (R47). -/
def State.push (s : State) (v : Word) : State :=
  State.memWrite16 { s with sp := s.sp - 2 } (PA s.ss (s.sp - 2)) v

/-- `pop()`: the word at SS:SP is read, then SP is incremented by 2 (R48). -/
def State.pop (s : State) : Word × State :=
  (s.memRead16 (PA s.ss s.sp), { s with sp := s.sp + 2 })

/-! ### The loader -/

/-- The loader (R251): the image at `PA(seg, off)` upwards, the four segment registers at `seg`, IP at
`off`. -/
def State.load (s : State) (seg off : Word) (image : List Byte) : State :=
  { s.storeBytes (PA seg off) image with cs := seg, ds := seg, es := seg, ss := seg, ip := off }

/-! ### Fetch, and the end of a transaction -/

/-- The fetch address at CPU level, `PA(CS, IP)` (40_decode_pipeline.md R91). -/
def State.fetchAddr (s : State) : Addr20 := PA s.cs s.ip

/-- `B(k) = MemRead((fa + k) mod 2^20, 1)` (R93). -/
def State.fetchByte (s : State) (fa : Addr20) (k : Nat) : Byte := s.memRead8 (fa + BitVec.ofNat 20 k)

/-- `emit(I)` (R92, R94): IP advances by the length, and `Ok(I)` is answered. Nothing else changes. -/
def emit (body : Body) (len : Nat) (s : State) : Answer :=
  .next { s with ip := s.ip + BitVec.ofNat 16 len, rsp := .ok ⟨body, len⟩ }

/-- `raise DecodeError` (R92, R224, R228): `Err(E)` is answered, and no state changes (assumption 2). -/
def raiseDecodeError (e : DecodeError) (s : State) : Answer := .next { s with rsp := .err e }

/-- Store an instruction word of the opcode table, six bytes, where the next decode reads it, and select
the `BCD_PAIR` under which it is in the set (assumption 12). -/
def State.placeWord (s : State) (nbits w : Nat) : State :=
  { s.storeBytes s.fetchAddr ((List.range maxLen).map (tableByte nbits w)) with
    bcdPair := tablePair s.bcdPair nbits w }

end Sys2Proof.Machine
end

