-- ==== Sys2Proof/Machine/Operands.lean ====
section
/-! DEFINITION. What the spec says a memory operand means to an execution stage: the effective address
(40_decode_pipeline.md R106), the default segment (R107) and the branch target (42_control_transfer.md
R149). The decode block computes none of these (R104); the reference execution stage does. -/

namespace Sys2Proof.Machine

/-- The base register of an addressing form, if it has one (30_encoding.md R64): its `rm` column, form 6
being the direct address. -/
def formBase (form : Fin 24) : Option Register :=
  if form.val = 6 then none
  else
    match form.val % 8 with
    | 0 | 1 | 7 => some .bx
    | 2 | 3 | 6 => some .bp
    | _ => none

/-- The index register of an addressing form, if it has one (R64). -/
def formIndex (form : Fin 24) : Option Register :=
  match form.val % 8 with
  | 0 | 2 | 4 => some .si
  | 1 | 3 | 5 => some .di
  | _ => none

/-- The contents of an optional register; an absent one counts 0 (R106). -/
def State.optReg (s : State) : Option Register → Word
  | some r => s.getReg r
  | none => 0

/-- `dispval` (R106): a disp8 is sign-extended (R67). -/
def dispValue : Disp → Word
  | .noDisp => 0
  | .d8 d => d.signExtend 16
  | .d16 d => d

/-- The effective address: base + index + displacement modulo 2^16 (R106). -/
def State.ea (s : State) (m : Mem) : Word :=
  s.optReg (formBase m.form) + s.optReg (formIndex m.form) + dispValue m.disp

/-- The default segment: SS for a form whose base is BP, DS for every other, form 6 included (R107). -/
def defaultSeg (form : Fin 24) : SReg := if formBase form = some .bp then .ss else .ds

/-- The target of a relative transfer: `IP_after + sext_16(rel)` modulo 2^16 (R149). -/
def branchTarget (ipAfter : Word) (rel : Byte) : Word := ipAfter + rel.signExtend 16

end Sys2Proof.Machine
end

