-- ==== Sys2Proof/Machine/ControlTransfer.lean ====
section
/-! DEFINITION. The meanings of the control-transfer family (42_control_transfer.md R140-R148). The decoder never redirects IP
(40_decode_pipeline.md R95): each of these advances it by its length, like any other instruction.
A meaning in the block is the rule's Decode line: emit the instruction value with its length. -/

namespace Sys2Proof.Machine

/-- `JO rel8` (R141): opcode 70. -/
def execJo (rel : Byte) (s : State) : Answer :=
  emit (.jcc .o rel) 2 s

/-- `JNO rel8` (R141): opcode 71. -/
def execJno (rel : Byte) (s : State) : Answer :=
  emit (.jcc .no rel) 2 s

/-- `JB rel8` (R141): opcode 72. -/
def execJb (rel : Byte) (s : State) : Answer :=
  emit (.jcc .b rel) 2 s

/-- `JAE rel8` (R141): opcode 73. -/
def execJae (rel : Byte) (s : State) : Answer :=
  emit (.jcc .ae rel) 2 s

/-- `JE rel8` (R141): opcode 74. -/
def execJe (rel : Byte) (s : State) : Answer :=
  emit (.jcc .e rel) 2 s

/-- `JNE rel8` (R141): opcode 75. -/
def execJne (rel : Byte) (s : State) : Answer :=
  emit (.jcc .ne rel) 2 s

/-- `JBE rel8` (R141): opcode 76. -/
def execJbe (rel : Byte) (s : State) : Answer :=
  emit (.jcc .be rel) 2 s

/-- `JA rel8` (R141): opcode 77. -/
def execJa (rel : Byte) (s : State) : Answer :=
  emit (.jcc .a rel) 2 s

/-- `JS rel8` (R141): opcode 78. -/
def execJs (rel : Byte) (s : State) : Answer :=
  emit (.jcc .s rel) 2 s

/-- `JNS rel8` (R141): opcode 79. -/
def execJns (rel : Byte) (s : State) : Answer :=
  emit (.jcc .ns rel) 2 s

/-- `JP rel8` (R141): opcode 7A. -/
def execJp (rel : Byte) (s : State) : Answer :=
  emit (.jcc .p rel) 2 s

/-- `JNP rel8` (R141): opcode 7B. -/
def execJnp (rel : Byte) (s : State) : Answer :=
  emit (.jcc .np rel) 2 s

/-- `JL rel8` (R141): opcode 7C. -/
def execJl (rel : Byte) (s : State) : Answer :=
  emit (.jcc .l rel) 2 s

/-- `JGE rel8` (R141): opcode 7D. -/
def execJge (rel : Byte) (s : State) : Answer :=
  emit (.jcc .ge rel) 2 s

/-- `JLE rel8` (R141): opcode 7E. -/
def execJle (rel : Byte) (s : State) : Answer :=
  emit (.jcc .le rel) 2 s

/-- `JG rel8` (R141): opcode 7F. -/
def execJg (rel : Byte) (s : State) : Answer :=
  emit (.jcc .g rel) 2 s

/-- `LOOPNZ rel8` (R143): opcode E0. -/
def execLoopnz (rel : Byte) (s : State) : Answer :=
  emit (.loop .nz rel) 2 s

/-- `LOOPZ rel8` (R143): opcode E1. -/
def execLoopz (rel : Byte) (s : State) : Answer :=
  emit (.loop .z rel) 2 s

/-- `LOOP rel8` (R143): opcode E2. -/
def execLoop (rel : Byte) (s : State) : Answer :=
  emit (.loop .always rel) 2 s

/-- `JCXZ rel8` (R144): opcode E3. -/
def execJcxz (rel : Byte) (s : State) : Answer :=
  emit (.jcxz rel) 2 s

/-- `RET` (R145): opcode C3. -/
def execRet (s : State) : Answer :=
  emit (.ret false none) 1 s

/-- `RET imm16` (R146): opcode C2. -/
def execRetImm16 (adjust : Word) (s : State) : Answer :=
  emit (.ret false (some adjust)) 3 s

/-- `RETF` (R147): opcode CB. -/
def execRetf (s : State) : Answer :=
  emit (.ret true none) 1 s

/-- `RETF imm16` (R148): opcode CA. -/
def execRetfImm16 (adjust : Word) (s : State) : Answer :=
  emit (.ret true (some adjust)) 3 s

end Sys2Proof.Machine
end

