-- ==== Sys2Proof/Machine/DataMovement.lean ====
section
/-! DEFINITION. The meanings of the data movement family (41_data_movement.md R120-R131).
A meaning in the block is the rule's Decode line: emit the instruction value with its length. -/

namespace Sys2Proof.Machine

/-- `MOV r8, imm8` (R120): opcode B0-B7. -/
def execMovR8Imm8 (dst : Register) (imm : Byte) (s : State) : Answer :=
  emit (.movRegImm dst (.i8 imm)) 2 s

/-- `MOV r16, imm16` (R120): opcode B8-BF. -/
def execMovR16Imm16 (dst : Register) (imm : Word) (s : State) : Answer :=
  emit (.movRegImm dst (.i16 imm)) 3 s

/-- `MOV AL, moffs8` (R121): opcode A0. -/
def execMovAlMoffs8 (addr : Word) (s : State) : Answer :=
  emit (.movAccMem .byte addr) 3 s

/-- `MOV AX, moffs16` (R121): opcode A1. -/
def execMovAxMoffs16 (addr : Word) (s : State) : Answer :=
  emit (.movAccMem .word addr) 3 s

/-- `MOV moffs8, AL` (R122): opcode A2. -/
def execMovMoffs8Al (addr : Word) (s : State) : Answer :=
  emit (.movMemAcc .byte addr) 3 s

/-- `MOV moffs16, AX` (R122): opcode A3. -/
def execMovMoffs16Ax (addr : Word) (s : State) : Answer :=
  emit (.movMemAcc .word addr) 3 s

/-- `MOV r/m8, r8` (R123): opcode 88. -/
def execMovRm8R8 (dst : RM) (src : Register) (s : State) : Answer :=
  emit (.movRmReg .byte dst src) (2 + dst.dlen) s

/-- `MOV r/m16, r16` (R123): opcode 89. -/
def execMovRm16R16 (dst : RM) (src : Register) (s : State) : Answer :=
  emit (.movRmReg .word dst src) (2 + dst.dlen) s

/-- `MOV r8, r/m8` (R124): opcode 8A. -/
def execMovR8Rm8 (dst : Register) (src : RM) (s : State) : Answer :=
  emit (.movRegRm .byte dst src) (2 + src.dlen) s

/-- `MOV r16, r/m16` (R124): opcode 8B. -/
def execMovR16Rm16 (dst : Register) (src : RM) (s : State) : Answer :=
  emit (.movRegRm .word dst src) (2 + src.dlen) s

/-- `MOV r/m16, Sreg` (R125): opcode 8C. -/
def execMovRm16Sreg (dst : RM) (src : SReg) (s : State) : Answer :=
  emit (.movRmSreg dst src) (2 + dst.dlen) s

/-- `MOV Sreg, r/m16` (R126): opcode 8E. -/
def execMovSregRm16 (dst : SReg) (src : RM) (s : State) : Answer :=
  emit (.movSregRm dst src) (2 + src.dlen) s

/-- `MOV r/m8, imm8` (R127): opcode C6. -/
def execMovRm8Imm8 (dst : RM) (imm : Byte) (s : State) : Answer :=
  emit (.movRmImm .byte dst (.i8 imm)) (3 + dst.dlen) s

/-- `MOV r/m16, imm16` (R127): opcode C7. -/
def execMovRm16Imm16 (dst : RM) (imm : Word) (s : State) : Answer :=
  emit (.movRmImm .word dst (.i16 imm)) (4 + dst.dlen) s

/-- `LEA r16, m` (R129): opcode 8D. -/
def execLeaR16M (dst : Register) (src : Mem) (s : State) : Answer :=
  emit (.lea dst src) (2 + src.dlen) s

/-- `LES r16, m32` (R130): opcode C4. -/
def execLesR16M32 (dst : Register) (src : Mem) (s : State) : Answer :=
  emit (.les dst src) (2 + src.dlen) s

/-- `LDS r16, m32` (R131): opcode C5. -/
def execLdsR16M32 (dst : Register) (src : Mem) (s : State) : Answer :=
  emit (.lds dst src) (2 + src.dlen) s

end Sys2Proof.Machine
end

