-- ==== Sys2Proof/Machine/FlagPrefix.lean ====
section
/-! DEFINITION. The meanings of the flag, prefix and no-operand family (45_flag_prefix.md R180-R211). No decode writes FLAGS, a prefix
is a complete instruction of its own (30_encoding.md R74), and HLT and WAIT stop nothing (60_exceptions.md R236).
A meaning in the block is the rule's Decode line: emit the instruction value with its length. -/

namespace Sys2Proof.Machine

/-- `HLT` (R180): opcode F4. -/
def execHlt (s : State) : Answer :=
  emit (.simple .hlt) 1 s

/-- `NOP` (R181): opcode 90. -/
def execNop (s : State) : Answer :=
  emit (.simple .nop) 1 s

/-- `WAIT` (R182): opcode 9B. -/
def execWait (s : State) : Answer :=
  emit (.simple .wait) 1 s

/-- `LOCK` (R183): opcode F0. -/
def execLock (s : State) : Answer :=
  emit (.simple .lock) 1 s

/-- `ES:` (R184): opcode 26. -/
def execSegEs (s : State) : Answer :=
  emit (.seg .es) 1 s

/-- `CS:` (R185): opcode 2E. -/
def execSegCs (s : State) : Answer :=
  emit (.seg .cs) 1 s

/-- `SS:` (R186): opcode 36. -/
def execSegSs (s : State) : Answer :=
  emit (.seg .ss) 1 s

/-- `DS:` (R187): opcode 3E. -/
def execSegDs (s : State) : Answer :=
  emit (.seg .ds) 1 s

/-- `REPNE` (R188): opcode F2. -/
def execRepne (s : State) : Answer :=
  emit (.rep false) 1 s

/-- `REP` (R189): opcode F3. -/
def execRep (s : State) : Answer :=
  emit (.rep true) 1 s

/-- `STC` (R190): opcode F9. -/
def execStc (s : State) : Answer :=
  emit (.simple .stc) 1 s

/-- `CLC` (R191): opcode F8. -/
def execClc (s : State) : Answer :=
  emit (.simple .clc) 1 s

/-- `CMC` (R192): opcode F5. -/
def execCmc (s : State) : Answer :=
  emit (.simple .cmc) 1 s

/-- `STD` (R193): opcode FD. -/
def execStd (s : State) : Answer :=
  emit (.simple .std) 1 s

/-- `CLD` (R194): opcode FC. -/
def execCld (s : State) : Answer :=
  emit (.simple .cld) 1 s

/-- `STI` (R195): opcode FB. -/
def execSti (s : State) : Answer :=
  emit (.simple .sti) 1 s

/-- `CLI` (R196): opcode FA. -/
def execCli (s : State) : Answer :=
  emit (.simple .cli) 1 s

/-- `CBW` (R197): opcode 98. -/
def execCbw (s : State) : Answer :=
  emit (.simple .cbw) 1 s

/-- `CWD` (R198): opcode 99. -/
def execCwd (s : State) : Answer :=
  emit (.simple .cwd) 1 s

/-- `LAHF` (R203): opcode 9F. -/
def execLahf (s : State) : Answer :=
  emit (.simple .lahf) 1 s

/-- `SAHF` (R204): opcode 9E. -/
def execSahf (s : State) : Answer :=
  emit (.simple .sahf) 1 s

/-- `PUSHF` (R205): opcode 9C. -/
def execPushf (s : State) : Answer :=
  emit (.simple .pushf) 1 s

/-- `POPF` (R206): opcode 9D. -/
def execPopf (s : State) : Answer :=
  emit (.simple .popf) 1 s

/-- `IRET` (R207): opcode CF. -/
def execIret (s : State) : Answer :=
  emit (.simple .iret) 1 s

/-- `XLAT` (R208): opcode D7. -/
def execXlat (s : State) : Answer :=
  emit (.simple .xlat) 1 s

/-- `AAA` (R199): opcode 37, decoded only when `BCD_PAIR = ASCII`. -/
def execAaa (s : State) : Answer :=
  emit (.simple .aaa) 1 s

/-- `AAS` (R200): opcode 3F, decoded only when `BCD_PAIR = ASCII`. -/
def execAas (s : State) : Answer :=
  emit (.simple .aas) 1 s

/-- `AAM imm8` (R201): opcode D4. -/
def execAamImm8 (base : Byte) (s : State) : Answer :=
  emit (.aam base) 2 s

/-- `AAD imm8` (R202): opcode D5. -/
def execAadImm8 (base : Byte) (s : State) : Answer :=
  emit (.aad base) 2 s

/-- `DAA` (R209): opcode 27, decoded only when `BCD_PAIR = DECIMAL`. -/
def execDaa (s : State) : Answer :=
  emit (.simple .daa) 1 s

/-- `DAS` (R210): opcode 2F, decoded only when `BCD_PAIR = DECIMAL`. -/
def execDas (s : State) : Answer :=
  emit (.simple .das) 1 s

end Sys2Proof.Machine
end

