-- ==== Sys2Proof/Machine/PortIo.lean ====
section
/-! DEFINITION. The meanings of the I/O family (44_io.md R170-R177). No component of the block reads or writes a port (20_memory.md R49).
A meaning in the block is the rule's Decode line: emit the instruction value with its length. -/

namespace Sys2Proof.Machine

/-- `IN AL, imm8` (R170): opcode E4. -/
def execInAlImm8 (port : Byte) (s : State) : Answer :=
  emit (.inp .byte (.fixed port)) 2 s

/-- `IN AX, imm8` (R171): opcode E5. -/
def execInAxImm8 (port : Byte) (s : State) : Answer :=
  emit (.inp .word (.fixed port)) 2 s

/-- `IN AL, DX` (R172): opcode EC. -/
def execInAlDx (s : State) : Answer :=
  emit (.inp .byte .dx) 1 s

/-- `IN AX, DX` (R173): opcode ED. -/
def execInAxDx (s : State) : Answer :=
  emit (.inp .word .dx) 1 s

/-- `OUT imm8, AL` (R174): opcode E6. -/
def execOutImm8Al (port : Byte) (s : State) : Answer :=
  emit (.outp .byte (.fixed port)) 2 s

/-- `OUT imm8, AX` (R175): opcode E7. -/
def execOutImm8Ax (port : Byte) (s : State) : Answer :=
  emit (.outp .word (.fixed port)) 2 s

/-- `OUT DX, AL` (R176): opcode EE. -/
def execOutDxAl (s : State) : Answer :=
  emit (.outp .byte .dx) 1 s

/-- `OUT DX, AX` (R177): opcode EF. -/
def execOutDxAx (s : State) : Answer :=
  emit (.outp .word .dx) 1 s

end Sys2Proof.Machine
end

