-- ==== Sys2Proof/Machine/SoftInt.lean ====
section
/-! DEFINITION. The meanings of the software-interrupt family (43_software_interrupts.md R160-R162). The block raises no trap and
enters no handler (60_exceptions.md R225, R228).
A meaning in the block is the rule's Decode line: emit the instruction value with its length. -/

namespace Sys2Proof.Machine

/-- `INT3` (R160): opcode CC. -/
def execInt3 (s : State) : Answer :=
  emit .int3 1 s

/-- `INT imm8` (R161): opcode CD. -/
def execIntImm8 (vector : Byte) (s : State) : Answer :=
  emit (.int vector) 2 s

/-- `INTO` (R162): opcode CE. -/
def execInto (s : State) : Answer :=
  emit .into 1 s

end Sys2Proof.Machine
end

