-- ==== Sys2Proof/Machine/Dispatch.lean ====
section
/-! DEFINITION. One arm per instruction: the meaning it calls. -/

namespace Sys2Proof.Machine

def exec (i : Instr) (s : State) : Host.Outcome State Fault Refusal :=
  match i with
  | .movR8Imm8 dst imm => Sys2Proof.Machine.execMovR8Imm8 dst imm s
  | .movR16Imm16 dst imm => Sys2Proof.Machine.execMovR16Imm16 dst imm s
  | .movAlMoffs8 addr => Sys2Proof.Machine.execMovAlMoffs8 addr s
  | .movAxMoffs16 addr => Sys2Proof.Machine.execMovAxMoffs16 addr s
  | .movMoffs8Al addr => Sys2Proof.Machine.execMovMoffs8Al addr s
  | .movMoffs16Ax addr => Sys2Proof.Machine.execMovMoffs16Ax addr s
  | .movRm8R8 dst src => Sys2Proof.Machine.execMovRm8R8 dst src s
  | .movRm16R16 dst src => Sys2Proof.Machine.execMovRm16R16 dst src s
  | .movR8Rm8 dst src => Sys2Proof.Machine.execMovR8Rm8 dst src s
  | .movR16Rm16 dst src => Sys2Proof.Machine.execMovR16Rm16 dst src s
  | .movRm16Sreg dst src => Sys2Proof.Machine.execMovRm16Sreg dst src s
  | .movSregRm16 dst src => Sys2Proof.Machine.execMovSregRm16 dst src s
  | .movRm8Imm8 dst imm => Sys2Proof.Machine.execMovRm8Imm8 dst imm s
  | .movRm16Imm16 dst imm => Sys2Proof.Machine.execMovRm16Imm16 dst imm s
  | .leaR16M dst src => Sys2Proof.Machine.execLeaR16M dst src s
  | .lesR16M32 dst src => Sys2Proof.Machine.execLesR16M32 dst src s
  | .ldsR16M32 dst src => Sys2Proof.Machine.execLdsR16M32 dst src s
  | .jo rel => Sys2Proof.Machine.execJo rel s
  | .jno rel => Sys2Proof.Machine.execJno rel s
  | .jb rel => Sys2Proof.Machine.execJb rel s
  | .jae rel => Sys2Proof.Machine.execJae rel s
  | .je rel => Sys2Proof.Machine.execJe rel s
  | .jne rel => Sys2Proof.Machine.execJne rel s
  | .jbe rel => Sys2Proof.Machine.execJbe rel s
  | .ja rel => Sys2Proof.Machine.execJa rel s
  | .js rel => Sys2Proof.Machine.execJs rel s
  | .jns rel => Sys2Proof.Machine.execJns rel s
  | .jp rel => Sys2Proof.Machine.execJp rel s
  | .jnp rel => Sys2Proof.Machine.execJnp rel s
  | .jl rel => Sys2Proof.Machine.execJl rel s
  | .jge rel => Sys2Proof.Machine.execJge rel s
  | .jle rel => Sys2Proof.Machine.execJle rel s
  | .jg rel => Sys2Proof.Machine.execJg rel s
  | .loopnz rel => Sys2Proof.Machine.execLoopnz rel s
  | .loopz rel => Sys2Proof.Machine.execLoopz rel s
  | .loop rel => Sys2Proof.Machine.execLoop rel s
  | .jcxz rel => Sys2Proof.Machine.execJcxz rel s
  | .ret => Sys2Proof.Machine.execRet s
  | .retImm16 adjust => Sys2Proof.Machine.execRetImm16 adjust s
  | .retf => Sys2Proof.Machine.execRetf s
  | .retfImm16 adjust => Sys2Proof.Machine.execRetfImm16 adjust s
  | .int3 => Sys2Proof.Machine.execInt3 s
  | .intImm8 vector => Sys2Proof.Machine.execIntImm8 vector s
  | .into => Sys2Proof.Machine.execInto s
  | .inAlImm8 port => Sys2Proof.Machine.execInAlImm8 port s
  | .inAxImm8 port => Sys2Proof.Machine.execInAxImm8 port s
  | .inAlDx => Sys2Proof.Machine.execInAlDx s
  | .inAxDx => Sys2Proof.Machine.execInAxDx s
  | .outImm8Al port => Sys2Proof.Machine.execOutImm8Al port s
  | .outImm8Ax port => Sys2Proof.Machine.execOutImm8Ax port s
  | .outDxAl => Sys2Proof.Machine.execOutDxAl s
  | .outDxAx => Sys2Proof.Machine.execOutDxAx s
  | .hlt => Sys2Proof.Machine.execHlt s
  | .nop => Sys2Proof.Machine.execNop s
  | .wait => Sys2Proof.Machine.execWait s
  | .lock => Sys2Proof.Machine.execLock s
  | .segEs => Sys2Proof.Machine.execSegEs s
  | .segCs => Sys2Proof.Machine.execSegCs s
  | .segSs => Sys2Proof.Machine.execSegSs s
  | .segDs => Sys2Proof.Machine.execSegDs s
  | .repne => Sys2Proof.Machine.execRepne s
  | .rep => Sys2Proof.Machine.execRep s
  | .stc => Sys2Proof.Machine.execStc s
  | .clc => Sys2Proof.Machine.execClc s
  | .cmc => Sys2Proof.Machine.execCmc s
  | .std => Sys2Proof.Machine.execStd s
  | .cld => Sys2Proof.Machine.execCld s
  | .sti => Sys2Proof.Machine.execSti s
  | .cli => Sys2Proof.Machine.execCli s
  | .cbw => Sys2Proof.Machine.execCbw s
  | .cwd => Sys2Proof.Machine.execCwd s
  | .lahf => Sys2Proof.Machine.execLahf s
  | .sahf => Sys2Proof.Machine.execSahf s
  | .pushf => Sys2Proof.Machine.execPushf s
  | .popf => Sys2Proof.Machine.execPopf s
  | .iret => Sys2Proof.Machine.execIret s
  | .xlat => Sys2Proof.Machine.execXlat s
  | .aaa => Sys2Proof.Machine.execAaa s
  | .aas => Sys2Proof.Machine.execAas s
  | .aamImm8 base => Sys2Proof.Machine.execAamImm8 base s
  | .aadImm8 base => Sys2Proof.Machine.execAadImm8 base s
  | .daa => Sys2Proof.Machine.execDaa s
  | .das => Sys2Proof.Machine.execDas s

end Sys2Proof.Machine
end

