-- ==== Sys2Proof/Machine/Request.lean ====
section
/-! DEFINITION. One decode transaction at any fetch address (40_decode_pipeline.md R90-R92). -/

namespace Sys2Proof.Machine

/-- `decode(fa)` (R92): dispatch on the bytes at `fa`, then either the instruction's meaning, which emits
its value and advances IP, or a decode error, which changes no state. IP advances by the length even
when `fa` is not `PA(CS, IP)` (R91). -/
def decodeRequest (fa : Addr20) (s : State) : Answer :=
  match decode s.bcdPair fa (s.fetchByte fa) with
  | .ok i => exec i s
  | .err e => raiseDecodeError e s

end Sys2Proof.Machine
end

