-- ==== Sys2Proof/Machine/Step.lean ====
section
/-! DEFINITION. One step of the block: the decode transaction that the CPU requests at `PA(CS, IP)`
(40_decode_pipeline.md R91). -/

namespace Sys2Proof.Machine

/-- One decode transaction at the fetch address (R91, R92). -/
def step (s : State) : Host.Outcome State Fault Refusal := decodeRequest s.fetchAddr s

/-- The state with an instruction word of the opcode table stored where `step` fetches next. -/
def State.withFetchWord (s : State) (nbits w : Nat) : State := s.placeWord nbits w

end Sys2Proof.Machine
end

