-- ==== Sys2Proof/Laws/PerInstr.lean ====
section
/-! SUPPORT. Statements about every instruction as syntax, one lemma for each constructor of `Instr`. -/

namespace Sys2Proof.Laws

@[simp] theorem length_wordBytes (v : Word) : (wordBytes v).length = 2 := rfl

@[simp] theorem length_dispBytes (d : Disp) : d.bytes.length = d.len := by
  cases d <;> rfl

@[simp] theorem length_memBytes (reg : BitVec 3) (m : Mem) : (m.bytes reg).length = 1 + m.dlen := by
  simp [Mem.bytes, Mem.dlen, Nat.add_comm]

@[simp] theorem length_rmBytes (reg : BitVec 3) (rm : RM) : (rm.bytes reg).length = 1 + rm.dlen := by
  cases rm <;> simp [RM.bytes, RM.dlen]

theorem disp_len_le (d : Disp) : d.len ≤ 2 := by
  cases d <;> simp [Disp.len]

theorem mem_dlen_le (m : Mem) : m.dlen ≤ 2 := disp_len_le m.disp

theorem rm_dlen_le (rm : RM) : rm.dlen ≤ 2 := by
  cases rm with
  | regOp r => simp [RM.dlen]
  | memOp m => exact mem_dlen_le m

namespace EncodedLength

/-- The encoder writes as many bytes as the length table gives (30_encoding.md R68). -/
def Statement (i : Instr) : Prop := (encode i).length = i.len

theorem movR8Imm8 (dst : Register) (imm : Byte) : Statement (.movR8Imm8 dst imm) := rfl

theorem movR16Imm16 (dst : Register) (imm : Word) : Statement (.movR16Imm16 dst imm) := rfl

theorem movAlMoffs8 (addr : Word) : Statement (.movAlMoffs8 addr) := rfl

theorem movAxMoffs16 (addr : Word) : Statement (.movAxMoffs16 addr) := rfl

theorem movMoffs8Al (addr : Word) : Statement (.movMoffs8Al addr) := rfl

theorem movMoffs16Ax (addr : Word) : Statement (.movMoffs16Ax addr) := rfl

theorem movRm8R8 (dst : RM) (src : Register) : Statement (.movRm8R8 dst src) := by
  simp [Statement, encode, Instr.len]; omega

theorem movRm16R16 (dst : RM) (src : Register) : Statement (.movRm16R16 dst src) := by
  simp [Statement, encode, Instr.len]; omega

theorem movR8Rm8 (dst : Register) (src : RM) : Statement (.movR8Rm8 dst src) := by
  simp [Statement, encode, Instr.len]; omega

theorem movR16Rm16 (dst : Register) (src : RM) : Statement (.movR16Rm16 dst src) := by
  simp [Statement, encode, Instr.len]; omega

theorem movRm16Sreg (dst : RM) (src : SReg) : Statement (.movRm16Sreg dst src) := by
  simp [Statement, encode, Instr.len]; omega

theorem movSregRm16 (dst : SReg) (src : RM) : Statement (.movSregRm16 dst src) := by
  simp [Statement, encode, Instr.len]; omega

theorem movRm8Imm8 (dst : RM) (imm : Byte) : Statement (.movRm8Imm8 dst imm) := by
  simp [Statement, encode, Instr.len]; omega

theorem movRm16Imm16 (dst : RM) (imm : Word) : Statement (.movRm16Imm16 dst imm) := by
  simp [Statement, encode, Instr.len]; omega

theorem leaR16M (dst : Register) (src : Mem) : Statement (.leaR16M dst src) := by
  simp [Statement, encode, Instr.len]; omega

theorem lesR16M32 (dst : Register) (src : Mem) : Statement (.lesR16M32 dst src) := by
  simp [Statement, encode, Instr.len]; omega

theorem ldsR16M32 (dst : Register) (src : Mem) : Statement (.ldsR16M32 dst src) := by
  simp [Statement, encode, Instr.len]; omega

theorem jo (rel : Byte) : Statement (.jo rel) := rfl

theorem jno (rel : Byte) : Statement (.jno rel) := rfl

theorem jb (rel : Byte) : Statement (.jb rel) := rfl

theorem jae (rel : Byte) : Statement (.jae rel) := rfl

theorem je (rel : Byte) : Statement (.je rel) := rfl

theorem jne (rel : Byte) : Statement (.jne rel) := rfl

theorem jbe (rel : Byte) : Statement (.jbe rel) := rfl

theorem ja (rel : Byte) : Statement (.ja rel) := rfl

theorem js (rel : Byte) : Statement (.js rel) := rfl

theorem jns (rel : Byte) : Statement (.jns rel) := rfl

theorem jp (rel : Byte) : Statement (.jp rel) := rfl

theorem jnp (rel : Byte) : Statement (.jnp rel) := rfl

theorem jl (rel : Byte) : Statement (.jl rel) := rfl

theorem jge (rel : Byte) : Statement (.jge rel) := rfl

theorem jle (rel : Byte) : Statement (.jle rel) := rfl

theorem jg (rel : Byte) : Statement (.jg rel) := rfl

theorem loopnz (rel : Byte) : Statement (.loopnz rel) := rfl

theorem loopz (rel : Byte) : Statement (.loopz rel) := rfl

theorem loop (rel : Byte) : Statement (.loop rel) := rfl

theorem jcxz (rel : Byte) : Statement (.jcxz rel) := rfl

theorem ret : Statement (.ret) := rfl

theorem retImm16 (adjust : Word) : Statement (.retImm16 adjust) := rfl

theorem retf : Statement (.retf) := rfl

theorem retfImm16 (adjust : Word) : Statement (.retfImm16 adjust) := rfl

theorem int3 : Statement (.int3) := rfl

theorem intImm8 (vector : Byte) : Statement (.intImm8 vector) := rfl

theorem into : Statement (.into) := rfl

theorem inAlImm8 (port : Byte) : Statement (.inAlImm8 port) := rfl

theorem inAxImm8 (port : Byte) : Statement (.inAxImm8 port) := rfl

theorem inAlDx : Statement (.inAlDx) := rfl

theorem inAxDx : Statement (.inAxDx) := rfl

theorem outImm8Al (port : Byte) : Statement (.outImm8Al port) := rfl

theorem outImm8Ax (port : Byte) : Statement (.outImm8Ax port) := rfl

theorem outDxAl : Statement (.outDxAl) := rfl

theorem outDxAx : Statement (.outDxAx) := rfl

theorem hlt : Statement (.hlt) := rfl

theorem nop : Statement (.nop) := rfl

theorem wait : Statement (.wait) := rfl

theorem lock : Statement (.lock) := rfl

theorem segEs : Statement (.segEs) := rfl

theorem segCs : Statement (.segCs) := rfl

theorem segSs : Statement (.segSs) := rfl

theorem segDs : Statement (.segDs) := rfl

theorem repne : Statement (.repne) := rfl

theorem rep : Statement (.rep) := rfl

theorem stc : Statement (.stc) := rfl

theorem clc : Statement (.clc) := rfl

theorem cmc : Statement (.cmc) := rfl

theorem std : Statement (.std) := rfl

theorem cld : Statement (.cld) := rfl

theorem sti : Statement (.sti) := rfl

theorem cli : Statement (.cli) := rfl

theorem cbw : Statement (.cbw) := rfl

theorem cwd : Statement (.cwd) := rfl

theorem lahf : Statement (.lahf) := rfl

theorem sahf : Statement (.sahf) := rfl

theorem pushf : Statement (.pushf) := rfl

theorem popf : Statement (.popf) := rfl

theorem iret : Statement (.iret) := rfl

theorem xlat : Statement (.xlat) := rfl

theorem aaa : Statement (.aaa) := rfl

theorem aas : Statement (.aas) := rfl

theorem aamImm8 (base : Byte) : Statement (.aamImm8 base) := rfl

theorem aadImm8 (base : Byte) : Statement (.aadImm8 base) := rfl

theorem daa : Statement (.daa) := rfl

theorem das : Statement (.das) := rfl

end EncodedLength

/-- Every length is between 1 and 6 bytes (R60, R68). -/
theorem len_bounds (i : Instr) : 1 ≤ i.len ∧ i.len ≤ 6 := by
  cases i
  case movRm8R8 rm _ => have := rm_dlen_le rm; simp only [Instr.len]; omega
  case movRm16R16 rm _ => have := rm_dlen_le rm; simp only [Instr.len]; omega
  case movR8Rm8 _ rm => have := rm_dlen_le rm; simp only [Instr.len]; omega
  case movR16Rm16 _ rm => have := rm_dlen_le rm; simp only [Instr.len]; omega
  case movRm16Sreg rm _ => have := rm_dlen_le rm; simp only [Instr.len]; omega
  case movSregRm16 _ rm => have := rm_dlen_le rm; simp only [Instr.len]; omega
  case movRm8Imm8 rm _ => have := rm_dlen_le rm; simp only [Instr.len]; omega
  case movRm16Imm16 rm _ => have := rm_dlen_le rm; simp only [Instr.len]; omega
  case leaR16M _ m => have := mem_dlen_le m; simp only [Instr.len]; omega
  case lesR16M32 _ m => have := mem_dlen_le m; simp only [Instr.len]; omega
  case ldsR16M32 _ m => have := mem_dlen_le m; simp only [Instr.len]; omega
  all_goals simp [Instr.len]

end Sys2Proof.Laws
end

