-- ==== Sys2Proof/Machine/Env.lean ====
section
/-! DEFINITION. Everything that can happen to the machine, one constructor for each row of the writer table
(10_state.md R32): a decode request, the loader, the stack services and the register and memory
accessors. The environment acts only between decode transactions (60_exceptions.md R226,
70_reset_and_hazards.md R260), so an action is atomic. -/

namespace Sys2Proof.Machine

/-- One action of one agent of R32. -/
inductive Action where
  /-- the host requests a decode at any address (R90, R91) -/
  | decodeAt (fa : Addr20)
  /-- the CPU requests a decode at `PA(CS, IP)` (R91) -/
  | decodeNext
  /-- the loader (R251) -/
  | load (seg off : Word) (image : List Byte)
  | push (v : Word)
  | pop
  | writeReg (r : Register) (v : Word)
  | writeSReg (r : SReg) (v : Word)
  | writeIp (v : Word)
  | writeFlags (v : Word)
  | writeFlag (f : Flag) (b : Bool)
  | writeMem8 (a : Addr20) (v : Byte)
  | writeMem16 (a : Addr20) (v : Word)
deriving DecidableEq, Repr

/-- What an action does. -/
def act (x : Action) (s : State) : Answer :=
  match x with
  | .decodeAt fa => decodeRequest fa s
  | .decodeNext => step s
  | .load seg off image => .next (s.load seg off image)
  | .push v => .next (s.push v)
  | .pop => .next s.pop.2
  | .writeReg r v => .next (s.setReg r v)
  | .writeSReg r v => .next (s.setSReg r v)
  | .writeIp v => .next (s.setIp v)
  | .writeFlags v => .next (s.setFlags v)
  | .writeFlag f b => .next (s.setFlag f b)
  | .writeMem8 a v => .next (s.memWrite8 a v)
  | .writeMem16 a v => .next (s.memWrite16 a v)

/-- Actions in order, strictly sequential (R260); a run ends at the first fault or refusal. -/
def runActions : List Action → State → Answer
  | [], s => .next s
  | x :: xs, s =>
    match act x s with
    | .next t => runActions xs t
    | .fault r => .fault r
    | .refused r => .refused r

end Sys2Proof.Machine
end

