-- ==== Sys2Proof/Machine/InsnValue.lean ====
section
/-! DEFINITION. What holds of every answer of the decode port: an instruction value carries its own
length (40_decode_pipeline.md R102, R103) and operands an encoding can carry (R101), and a decode
error names the bytes that cause it (60_exceptions.md R220-R223). -/

namespace Sys2Proof.Machine

/-- The bytes of an immediate (30_encoding.md R67). -/
def immLen : Imm → Nat
  | .i8 _ => 1
  | .i16 _ => 2

/-- The width of an immediate. -/
def immWidth : Imm → Width
  | .i8 _ => .byte
  | .i16 _ => .word

/-- The length of an instruction value (R103): opcode, ModR/M, displacement and immediate bytes. -/
def bodyLen : Body → Nat
  | .movRegImm _ imm => 1 + immLen imm
  | .movAccMem _ _ | .movMemAcc _ _ => 3
  | .movRmReg _ rm _ | .movRegRm _ _ rm => 2 + rm.dlen
  | .movRmSreg rm _ | .movSregRm _ rm => 2 + rm.dlen
  | .movRmImm _ rm imm => 2 + rm.dlen + immLen imm
  | .lea _ m | .les _ m | .lds _ m => 2 + m.dlen
  | .jcc _ _ | .jcxz _ | .loop _ _ => 2
  | .ret _ none => 1
  | .ret _ (some _) => 3
  | .int3 | .into => 1
  | .int _ => 2
  | .inp _ (.fixed _) | .outp _ (.fixed _) => 2
  | .inp _ .dx | .outp _ .dx => 1
  | .seg _ | .rep _ | .simple _ => 1
  | .aam _ | .aad _ => 2

/-- The operands are ones an encoding can carry, under the given `BCD_PAIR` (R71, R101, R102). -/
def bodyWf (p : BcdPair) : Body → Bool
  | .movRegImm dst imm => decide (dst.width = immWidth imm)
  | .movAccMem _ _ | .movMemAcc _ _ => true
  | .movRmReg w dst src => dst.wf w && decide (src.width = w)
  | .movRegRm w dst src => decide (dst.width = w) && src.wf w
  | .movRmSreg rm _ | .movSregRm _ rm => rm.wf .word
  | .movRmImm w dst imm => dst.wf w && decide (immWidth imm = w)
  | .lea dst m | .les dst m | .lds dst m => decide (dst.width = .word) && m.wf
  | .jcc _ _ | .jcxz _ | .loop _ _ | .ret _ _ => true
  | .int3 | .int _ | .into => true
  | .inp _ _ | .outp _ _ | .seg _ | .rep _ => true
  | .simple .aaa | .simple .aas => decide (p = .ascii)
  | .simple .daa | .simple .das => decide (p = .decimal)
  | .simple _ => true
  | .aam _ | .aad _ => true

/-- An instruction value is well formed: legal operands and the exact length (R102, R103). -/
def insnWf (p : BcdPair) (v : Insn) : Bool := bodyWf p v.body && decide (v.len = bodyLen v.body)

/-- A decode error is one of the five cases of R221-R223, with its bytes. -/
def errorWf (p : BcdPair) (e : DecodeError) : Bool :=
  match e.kind, e.bytes with
  | .unknownOpcode, [b0] => (dispatchMap p b0).isNone
  | .unknownOpcode, [b0, b1] => (b0 == 0xC6 || b0 == 0xC7) && regField b1 != 0
  | .unknownSubform, [b0, b1] => (b0 == 0x8C || b0 == 0x8E) && (SReg.ofNum (regField b1)).isNone
  | .invalidOperandEncoding, [b0, b1] =>
    (b0 == 0x8D || b0 == 0xC4 || b0 == 0xC5) && modField b1 == 0b11
  | _, _ => false

end Sys2Proof.Machine
end

