-- ==== Sys2Proof/Machine/Stage.lean ====
section
/-! DEFINITION. The REFERENCE EXECUTION STAGE: the external agent that consumes instruction values
(00_scope.md R5, R14), as the "Execution meaning" lines of files 41-45 and rules R106, R107, R140, R142
and R149 give it. The spec marks all of it general knowledge and outside the block: `step` does not
use this file, and nothing here is behaviour of the block (assumption 13). It is here so that what
the spec says an execution stage does is modelled too. -/

namespace Sys2Proof.Machine

/-- The stage's own state beside the CPU's: the prefixes it must carry itself (70_reset_and_hazards.md
R258), whether it halted (R180), and the model's counter of free values (assumption 18). -/
structure StageState where
  core : State
  ovr : Option SReg
  lock : Bool
  rep : Option Bool
  halted : Bool
  draws : Nat
deriving DecidableEq, Repr

/-- The stage before it has executed anything, over a given CPU state. -/
def StageState.start (s : State) : StageState := ⟨s, none, false, none, false, 0⟩

/-! ### Operands -/

/-- The segment an operand uses: a pending override replaces the default (R107). -/
def StageState.segValue (t : StageState) (dflt : SReg) : Word := t.core.getSReg (t.ovr.getD dflt)

/-- The physical address of a memory operand (R106, R107). -/
def StageState.memAddr (t : StageState) (m : Mem) : Addr20 :=
  PA (t.segValue (defaultSeg m.form)) (t.core.ea m)

/-- Read a byte (zero-extended) or a word (20_memory.md R41, R42). -/
def State.readMem (s : State) (w : Width) (a : Addr20) : Word :=
  match w with
  | .byte => (s.memRead8 a).setWidth 16
  | .word => s.memRead16 a

/-- Write the low byte or the word (R43, R44). -/
def State.writeMem (s : State) (w : Width) (a : Addr20) (v : Word) : State :=
  match w with
  | .byte => s.memWrite8 a (loByte v)
  | .word => s.memWrite16 a v

/-- Read an r/m operand. -/
def StageState.readOperand (t : StageState) (w : Width) : RM → Word
  | .regOp r => t.core.getReg r
  | .memOp m => t.core.readMem w (t.memAddr m)

/-- Write an r/m operand. -/
def StageState.writeOperand (t : StageState) (w : Width) (rm : RM) (v : Word) : State :=
  match rm with
  | .regOp r => t.core.setReg r v
  | .memOp m => t.core.writeMem w (t.memAddr m) v

/-- The accumulator of a width: AL or AX. -/
def accumulator : Width → Register
  | .byte => .al
  | .word => .ax

/-- An immediate as a 16-bit value; a byte immediate is a byte operand (30_encoding.md R67). -/
def immValue : Imm → Word
  | .i8 v => v.setWidth 16
  | .i16 v => v

/-! ### Interrupts -/

/-- Enter an interrupt (R161): push FLAGS, CS and IP; clear IF and TF; load CS:IP from the vector table at
`4·vector`, IP at the lower word (assumption 17). -/
def State.interrupt (s : State) (vector : Byte) : State :=
  let pushed := ((s.push s.flags).push s.cs).push s.ip
  let entry : Addr20 := vector.setWidth 20 <<< 2
  { pushed with
    flags := interruptFlags s.flags
    ip := pushed.memRead16 entry
    cs := pushed.memRead16 (entry + 2) }

/-- Return from an interrupt (R207): pop IP, then CS, then FLAGS. -/
def State.interruptReturn (s : State) : State :=
  let a := s.pop
  let b := a.2.pop
  let c := b.2.pop
  { c.2 with ip := a.1, cs := b.1, flags := c.1 }

/-- RET and RETF (R145-R148): pop IP, and CS when far, then add the stack adjust to SP. -/
def State.returnFrom (s : State) (far : Bool) (adjust : Option Word) : State :=
  let a := s.pop
  let b := a.2.setIp a.1
  let c := if far then b.pop.2.setSReg .cs b.pop.1 else b
  { c with sp := c.sp + adjust.getD 0 }

/-- Load a far pointer (R130, R131): the word at EA into the register, the word at EA+2 into the segment
register (assumption 20). -/
def StageState.farPointer (t : StageState) (dst : Register) (sr : SReg) (m : Mem) : State :=
  let seg := t.segValue (defaultSeg m.form)
  let off := t.core.ea m
  (t.core.setReg dst (t.core.memRead16 (PA seg off))).setSReg sr (t.core.memRead16 (PA seg (off + 2)))

/-! ### Execution -/

/-- An instruction has been executed: the CPU state is the given one, and no prefix is pending
(assumption 14). -/
def StageState.done (t : StageState) (s : State) : StageState :=
  { t with core := s, ovr := none, lock := false, rep := none }

/-- FREE VALUES: registers written with open values, and the six arithmetic flags open (assumption 18). -/
def StageState.openResult (t : StageState) (r : Register) : StageState :=
  let s := t.core.setReg r (Config.freeWord t.draws)
  { t.done (s.setFlags (arithFlags s.flags (Config.freeWord (t.draws + 1)))) with draws := t.draws + 2 }

/-- The result in AX, and the six arithmetic flags open (assumption 18). -/
def StageState.openFlags (t : StageState) (ax : Word) : StageState :=
  let s := t.core.setReg .ax ax
  { t.done (s.setFlags (arithFlags s.flags (Config.freeWord t.draws))) with draws := t.draws + 1 }

/-- The no-operand instructions (45_flag_prefix.md R180-R183, R190-R200, R203-R210). -/
def StageState.executeNoOp (t : StageState) (op : NoOp) : StageState :=
  let s := t.core
  match op with
  | .hlt => { t.done s with halted := true }
  | .nop => t.done s
  | .wait => t.done s
  | .lock => { t with lock := true }
  | .clc => t.done (s.setFlag .cf false)
  | .stc => t.done (s.setFlag .cf true)
  | .cmc => t.done (s.setFlag .cf (!s.getFlag .cf))
  | .cld => t.done (s.setFlag .df false)
  | .std => t.done (s.setFlag .df true)
  | .cli => t.done (s.setFlag .intf false)
  | .sti => t.done (s.setFlag .intf true)
  | .cbw => t.done (s.setReg .ax ((loByte s.ax).signExtend 16))
  | .cwd => t.done (s.setReg .dx (if s.ax.msb then 0xFFFF else 0))
  | .aaa => t.openResult .ax
  | .aas => t.openResult .ax
  | .daa => t.openResult .al
  | .das => t.openResult .al
  | .lahf => t.done (s.setReg .ah ((loByte s.flags).setWidth 16))
  | .sahf => t.done (s.setFlags (sahfFlags s.flags (hiByte s.ax)))
  | .pushf => t.done (s.push s.flags)
  | .popf => t.done (s.pop.2.setFlags s.pop.1)
  | .iret => t.done s.interruptReturn
  | .xlat =>
    t.done (s.setReg .al (s.readMem .byte (PA (t.segValue .ds) (s.bx + (loByte s.ax).setWidth 16))))

/-- The "Execution meaning" of an instruction value. IP has already been advanced by the decode. -/
def StageState.execute (t : StageState) (v : Insn) : StageState :=
  let s := t.core
  match v.body with
  | .movRegImm dst imm => t.done (s.setReg dst (immValue imm))
  | .movAccMem w addr => t.done (s.setReg (accumulator w) (s.readMem w (PA (t.segValue .ds) addr)))
  | .movMemAcc w addr => t.done (s.writeMem w (PA (t.segValue .ds) addr) (s.getReg (accumulator w)))
  | .movRmReg w dst src => t.done (t.writeOperand w dst (s.getReg src))
  | .movRegRm w dst src => t.done (s.setReg dst (t.readOperand w src))
  | .movRmSreg dst src => t.done (t.writeOperand .word dst (s.getSReg src))
  | .movSregRm dst src => t.done (s.setSReg dst (t.readOperand .word src))
  | .movRmImm w dst imm => t.done (t.writeOperand w dst (immValue imm))
  | .lea dst m => t.done (s.setReg dst (s.ea m))
  | .les dst m => t.done (t.farPointer dst .es m)
  | .lds dst m => t.done (t.farPointer dst .ds m)
  | .jcc c rel => t.done (if condHolds c s.flags then s.setIp (branchTarget s.ip rel) else s)
  | .jcxz rel => t.done (if s.cx = 0 then s.setIp (branchTarget s.ip rel) else s)
  | .loop c rel =>
    let n := s.setReg .cx (s.cx - 1)
    t.done (if loopCondHolds c n.cx n.flags then n.setIp (branchTarget n.ip rel) else n)
  | .ret far adjust => t.done (s.returnFrom far adjust)
  | .int3 => t.done (s.interrupt 3)
  | .int vector => t.done (s.interrupt vector)
  | .into => t.done (if s.getFlag .ovf then s.interrupt 4 else s)
  | .inp w _ =>
    { t.done (s.setReg (accumulator w) (Config.freeWord t.draws)) with draws := t.draws + 1 }
  | .outp _ _ => t.done s
  | .seg sr => { t with ovr := some sr }
  | .rep z => { t with rep := some z }
  | .simple op => t.executeNoOp op
  | .aam base =>
    if base = 0 then t.done (s.interrupt 0)
    else t.openFlags (wordOf (loByte s.ax % base) (loByte s.ax / base))
  | .aad base => t.openFlags (wordOf (hiByte s.ax * base + loByte s.ax) 0)

/-- One decode followed by the execution of the value it answered, strictly sequential
(70_reset_and_hazards.md R259, R260). On a decode error the stepping stops (60_exceptions.md R229). A
halted stage stays halted (assumption 16). -/
def StageState.step (t : StageState) : Host.Outcome StageState Fault Refusal :=
  if t.halted then .next t
  else
    match Machine.step t.core with
    | .next s =>
      match s.rsp with
      | .ok v => .next (StageState.execute { t with core := s } v)
      | .err e => .fault (.decodeError e)
      | .idle => .next { t with core := s }
    | .fault r => .fault r
    | .refused r => .refused r

end Sys2Proof.Machine
end

