-- ==== Sys2Proof/Safety.lean ====
section
/-! DEFINITION. What counts as a good state and a safe run, in the terms the claims use. -/

namespace Sys2Proof.Machine

/-- What stands on the answer port is a legal answer (40_decode_pipeline.md R101-R103,
60_exceptions.md R220-R223). -/
def rspWf (p : BcdPair) : Rsp → Bool
  | .idle => true
  | .ok v => insnWf p v
  | .err e => errorWf p e

/-- The invariant: memory in canonical form, and a legal answer on the port. -/
def State.Inv (s : State) : Prop := s.mem.wf = true ∧ rspWf s.bcdPair s.rsp = true

/-- The states that some sequence of actions reaches from construction. -/
def Reachable (s : State) : Prop := ∃ xs, runActions xs State.reset = .next s

/-- A run is safe when it ends in no fault and in no refusal. -/
def SafeRun (xs : List Action) (s : State) : Prop := ∃ t, runActions xs s = .next t

/-- Everything of a state but IP and the answer port: what no decode transaction changes (R32). -/
def SameButIpAndRsp (s t : State) : Prop := t = { s with ip := t.ip, rsp := t.rsp }

end Sys2Proof.Machine
end

