-- ==== Sys2Proof/Certificates/Slice0/Obligations.lean ====
section
/-! DEFINITION. The statements for the provers. `Sys2Proof.Spec` holds tables copied from the spec's text
(the unknown bytes of R70, the lengths of R68, the errors of R221-R223) in a form of their own, so that a
statement compares the decoder with the spec and not with itself. -/

open Sys2Proof Sys2Proof.Machine

namespace Sys2Proof.Spec

/-- A successful transaction's answer (R92, R94): IP advanced, `Ok(I)` on the port `decode_rsp` of R90 (which the
model holds in its own field `rsp`, assumption 3), nothing else changed. -/
def answers (s : State) (body : Body) (len : Nat) : Answer :=
  .next { s with ip := s.ip + BitVec.ofNat 16 len, rsp := .ok ⟨body, len⟩ }

/-- A failed transaction's answer (R220, R224): `Err(E)` on the port, nothing else changed. That it is a next state
is the model's reading (assumption 2). -/
def rejects (s : State) (e : DecodeError) : Answer := .next { s with rsp := .err e }

/-- `op` stands at the fetch address. -/
def opcodeIs (s : State) (op : Byte) : Prop := s.fetchByte s.fetchAddr 0 = op

/-- Byte k of the instruction at the fetch address. -/
def fetched (s : State) (k : Nat) : Byte := s.fetchByte s.fetchAddr k

/-- Word k of the instruction at the fetch address, little-endian (R93). -/
def fetchedWord (s : State) (k : Nat) : Word := fetched s (k + 1) ++ fetched s k

/-- The ranges of first bytes that have no family under either `BCD_PAIR` (R70's list). -/
def unknownRanges : List (Nat × Nat) :=
  [(0x00, 0x25), (0x28, 0x2D), (0x30, 0x35), (0x38, 0x3D), (0x40, 0x6F),
    (0x80, 0x87), (0x8F, 0x8F), (0x91, 0x97), (0x9A, 0x9A), (0xA4, 0xAF)] ++
  [(0xC0, 0xC1), (0xC8, 0xC9), (0xD0, 0xD3), (0xD6, 0xD6), (0xD8, 0xDF), (0xE8, 0xEB),
    (0xF1, 0xF1), (0xF6, 0xF7), (0xFE, 0xFF)]

/-- A first byte with no family (R70, R71). -/
def unknownByte (p : BcdPair) (b : Byte) : Bool :=
  unknownRanges.any (fun r => decide (r.1 ≤ b.toNat) && decide (b.toNat ≤ r.2)) ||
    match p with
    | .ascii => b == 0x27 || b == 0x2F
    | .decimal => b == 0x37 || b == 0x3F

/-- The one error that the first two bytes raise, if any (R221, R222, R223, in the byte order of R227). -/
def errorOf (p : BcdPair) (fa : Addr20) (b0 b1 : Byte) : Option DecodeError :=
  if unknownByte p b0 then some ⟨.unknownOpcode, fa, [b0]⟩
  else if (b0 = 0xC6 ∨ b0 = 0xC7) ∧ (b1.toNat / 8) % 8 ≠ 0 then some ⟨.unknownOpcode, fa, [b0, b1]⟩
  else if (b0 = 0x8C ∨ b0 = 0x8E) ∧ 4 ≤ (b1.toNat / 8) % 8 then some ⟨.unknownSubform, fa, [b0, b1]⟩
  else if (b0 = 0x8D ∨ b0 = 0xC4 ∨ b0 = 0xC5) ∧ b1.toNat / 64 = 3 then
    some ⟨.invalidOperandEncoding, fa, [b0, b1]⟩
  else none

/-- `dlen` by mod and rm (R65). -/
def dlenOf (m : Byte) : Nat :=
  if m.toNat / 64 = 1 then 1
  else if m.toNat / 64 = 2 ∨ (m.toNat / 64 = 0 ∧ m.toNat % 8 = 6) then 2
  else 0

/-- The length table (R68), a function of the opcode and the ModR/M byte. -/
def lengthOf (b0 b1 : Byte) : Nat :=
  let n := b0.toNat
  if 0xB0 ≤ n ∧ n ≤ 0xB7 then 2
  else if 0xB8 ≤ n ∧ n ≤ 0xBF then 3
  else if n = 0xA0 ∨ n = 0xA1 ∨ n = 0xA2 ∨ n = 0xA3 then 3
  else if (0x88 ≤ n ∧ n ≤ 0x8E) ∨ n = 0xC4 ∨ n = 0xC5 then 2 + dlenOf b1
  else if n = 0xC6 then 3 + dlenOf b1
  else if n = 0xC7 then 4 + dlenOf b1
  else if (0x70 ≤ n ∧ n ≤ 0x7F) ∨ n = 0xE0 ∨ n = 0xE1 ∨ n = 0xE2 ∨ n = 0xE3 then 2
  else if n = 0xC2 ∨ n = 0xCA then 3
  else if n = 0xCD ∨ n = 0xE4 ∨ n = 0xE5 ∨ n = 0xE6 ∨ n = 0xE7 ∨ n = 0xD4 ∨ n = 0xD5 then 2
  else 1

/-- The memory operands of an instruction value. -/
def memsOf : Body → List Mem
  | .movRmReg _ (.memOp m) _ => [m]
  | .movRegRm _ _ (.memOp m) => [m]
  | .movRmSreg (.memOp m) _ => [m]
  | .movSregRm _ (.memOp m) => [m]
  | .movRmImm _ (.memOp m) _ => [m]
  | .lea _ m => [m]
  | .les _ m => [m]
  | .lds _ m => [m]
  | _ => []

/-- R101's table. -/
def dispFits (m : Mem) : Prop :=
  (m.form.val < 8 ∧ m.form.val ≠ 6 → m.disp = .noDisp) ∧
  (m.form.val = 6 → ∃ d, m.disp = .d16 d) ∧
  (8 ≤ m.form.val ∧ m.form.val < 16 → ∃ d, m.disp = .d8 d) ∧
  (16 ≤ m.form.val → ∃ d, m.disp = .d16 d)

/-- The 16-bit register a register is stored in (R20's storage column). -/
def parentOf : Register → Register
  | .al | .ah => .ax
  | .cl | .ch => .cx
  | .dl | .dh => .dx
  | .bl | .bh => .bx
  | r => r

/-- The effective address written out form by form (R64, R106). -/
def eaOf (s : State) (rm : Nat) (direct : Bool) : Word :=
  if direct then 0
  else if rm = 0 then s.bx + s.si
  else if rm = 1 then s.bx + s.di
  else if rm = 2 then s.bp + s.si
  else if rm = 3 then s.bp + s.di
  else if rm = 4 then s.si
  else if rm = 5 then s.di
  else if rm = 6 then s.bp
  else s.bx

/-- An executed instruction changed memory, and spent the pending prefixes, and changed nothing else of the stage. -/
def onlyMemoryAndPrefixesChange (t u : StageState) : Prop :=
  u = { t with core := { t.core with mem := u.core.mem }, ovr := none, lock := false, rep := none }

end Sys2Proof.Spec

open Sys2Proof.Spec

/-! ### State and memory -/

/-- R250: what construction leaves. -/
def Obligations.ConstructionLeavesZeroRegistersAndMemInit : Prop :=
  let s := State.reset
  s.ax = 0 ∧ s.bx = 0 ∧ s.cx = 0 ∧ s.dx = 0 ∧ s.sp = 0xFFFE ∧ s.bp = 0 ∧ s.si = 0 ∧ s.di = 0 ∧
  s.cs = 0 ∧ s.ds = 0 ∧ s.es = 0 ∧ s.ss = 0 ∧ s.ip = 0 ∧ s.flags = 0 ∧
  (∀ f, s.getFlag f = false) ∧ ∀ a, s.memRead8 a = Config.memInit a

/-- R40: the physical address is seg·16 + off, truncated to 20 bits. -/
def Obligations.PhysicalAddressIsSumModulo20Bits : Prop :=
  (∀ seg off, (PA seg off).toNat = (seg.toNat * 16 + off.toNat) % 2 ^ 20) ∧
  PA 0xFFFF 0x0010 = 0x00000

/-- R43: a byte write changes one byte and nothing else. -/
def Obligations.ByteWriteChangesOneByte : Prop :=
  ∀ (s : State) (a : Addr20) (v : Byte),
    (s.memWrite8 a v).memRead8 a = v ∧
    (∀ b, b ≠ a → (s.memWrite8 a v).memRead8 b = s.memRead8 b) ∧
    s.memWrite8 a v = { s with mem := (s.memWrite8 a v).mem }

/-- R42, R44: a word write stores two bytes, low byte first, the second address modulo 2^20, and changes
nothing else; a word read puts the two bytes together again. -/
def Obligations.WordAccessIsTwoBytesLittleEndian : Prop :=
  (∀ (s : State) (a : Addr20), s.memRead16 a = s.memRead8 (a + 1) ++ s.memRead8 a) ∧
  (∀ s : State, s.memRead16 0xFFFFF = s.memRead8 0x00000 ++ s.memRead8 0xFFFFF) ∧
  ∀ (s : State) (a : Addr20) (v : Word),
    (s.memWrite16 a v).memRead8 a = v.extractLsb' 0 8 ∧
    (s.memWrite16 a v).memRead8 (a + 1) = v.extractLsb' 8 8 ∧
    (s.memWrite16 a v).memRead16 a = v ∧
    (∀ b, b ≠ a → b ≠ a + 1 → (s.memWrite16 a v).memRead8 b = s.memRead8 b) ∧
    s.memWrite16 a v = { s with mem := (s.memWrite16 a v).mem }

/-- R47: push decrements SP by 2, then writes the word at SS:SP, and changes nothing else. -/
def Obligations.PushWritesWordBelowStackPointer : Prop :=
  ∀ (s : State) (v : Word),
    (s.push v).sp = s.sp - 2 ∧
    (s.push v).memRead16 (PA s.ss (s.sp - 2)) = v ∧
    (∀ b, b ≠ PA s.ss (s.sp - 2) → b ≠ PA s.ss (s.sp - 2) + 1 →
      (s.push v).memRead8 b = s.memRead8 b) ∧
    s.push v = { s with sp := s.sp - 2, mem := (s.push v).mem }

/-- R48: pop reads the word at SS:SP and increments SP by 2; a push followed by a pop returns the word and
restores SP. -/
def Obligations.PopReadsAndUndoesPush : Prop :=
  (∀ s : State, s.pop = (s.memRead16 (PA s.ss s.sp), { s with sp := s.sp + 2 })) ∧
  ∀ (s : State) (v : Word), (s.push v).pop.1 = v ∧ (s.push v).pop.2.sp = s.sp

/-- R22: the 8-bit halves: what a write of one half does to the register, to the other half and to every
other register, and what the two halves read. -/
def Obligations.HalfRegisterWriteKeepsOtherHalf : Prop :=
  ∀ (s : State) (v : Byte) (lo hi full : Register),
    (lo, hi, full) ∈ [(Register.al, Register.ah, Register.ax), (.cl, .ch, .cx), (.dl, .dh, .dx),
      (.bl, .bh, .bx)] →
    let sl := s.setReg lo (v.setWidth 16)
    let sh := s.setReg hi (v.setWidth 16)
    s.getReg lo = ((s.getReg full).extractLsb' 0 8).setWidth 16 ∧
    s.getReg hi = ((s.getReg full).extractLsb' 8 8).setWidth 16 ∧
    sl.getReg full = (s.getReg full &&& 0xFF00) ||| v.setWidth 16 ∧
    sh.getReg full = (s.getReg full &&& 0x00FF) ||| (v.setWidth 16 <<< 8) ∧
    sl.getReg lo = v.setWidth 16 ∧ sl.getReg hi = s.getReg hi ∧
    sh.getReg hi = v.setWidth 16 ∧ sh.getReg lo = s.getReg lo ∧
    ∀ r, r ≠ lo → r ≠ hi → r ≠ full → sl.getReg r = s.getReg r ∧ sh.getReg r = s.getReg r

/-- R23: a write of a 16-bit register, a segment register or IP replaces all 16 bits, and the halves then
read as the new value's bytes. -/
def Obligations.FullRegisterWriteReplacesAllBits : Prop :=
  (∀ (s : State) (r : Register) (v : Word), r.width = .word → (s.setReg r v).getReg r = v) ∧
  (∀ (s : State) (r : SReg) (v : Word), (s.setSReg r v).getSReg r = v) ∧
  (∀ (s : State) (v : Word), (s.setIp v).ip = v) ∧
  ∀ (s : State) (v : Word) (lo hi full : Register),
    (lo, hi, full) ∈ [(Register.al, Register.ah, Register.ax), (.cl, .ch, .cx), (.dl, .dh, .dx),
      (.bl, .bh, .bx)] →
    (s.setReg full v).getReg lo = (v.extractLsb' 0 8).setWidth 16 ∧
    (s.setReg full v).getReg hi = (v.extractLsb' 8 8).setWidth 16

/-- R28, R29: FLAGS is an opaque 16-bit word; each named flag has its bit; and the block neither reads nor
writes FLAGS. -/
def Obligations.FlagsAreOpaqueAndUnusedByDecode : Prop :=
  [Flag.cf, .pf, .af, .zf, .sf, .tf, .intf, .df, .ovf].map Flag.bit = [0, 2, 4, 6, 7, 8, 9, 10, 11] ∧
  (∀ (s : State) (v : Word), (s.setFlags v).flags = v) ∧
  (∀ (s : State) (f : Flag), s.getFlag f = s.flags.getLsbD f.bit) ∧
  (∀ (s : State) (f : Flag) (b : Bool), (s.setFlag f b).getFlag f = b ∧
    ∀ k, k ≠ f.bit → (s.setFlag f b).flags.getLsbD k = s.flags.getLsbD k) ∧
  ∀ (s t : State) (v : Word), step s = .next t →
    t.flags = s.flags ∧ step (s.setFlags v) = .next (t.setFlags v)

/-- R21, R25: the explicit register mapping, in the order of R20, and the segment register mapping. -/
def Obligations.RegisterNumbersNameRegistersInOrder : Prop :=
  (List.finRange 16).map Register.ofIndex =
    [.al, .cl, .dl, .bl, .ah, .ch, .dh, .bh, .ax, .cx, .dx, .bx, .sp, .bp, .si, .di] ∧
  (∀ r : BitVec 3, regOf .byte r = .ofIndex (Fin.ofNat 16 r.toNat) ∧
    regOf .word r = .ofIndex (Fin.ofNat 16 (8 + r.toNat))) ∧
  [SReg.ofNum 0, SReg.ofNum 1, SReg.ofNum 2, SReg.ofNum 3] =
    [some .es, some .cs, some .ss, some .ds] ∧
  ∀ n : BitVec 3, 4 ≤ n.toNat → SReg.ofNum n = none

/-! ### The decoder -/

/-- R70, R71: every first byte with no family raises UnknownOpcode with that byte, and there are 161 of
them under either `BCD_PAIR`. -/
def Obligations.UnknownFirstByteRaisesUnknownOpcode : Prop :=
  (∀ (fa : Addr20) (s : State), unknownByte s.bcdPair (s.fetchByte fa 0) = true →
    decodeRequest fa s = rejects s ⟨.unknownOpcode, fa, [s.fetchByte fa 0]⟩) ∧
  ∀ p, ((List.range 256).filter fun n => unknownByte p (BitVec.ofNat 8 n)).length = 161

/-- R221, R222, R223: a decode fails exactly on the bytes these rules name, each with its kind, its address
and its bytes; every other request succeeds. -/
def Obligations.ErrorsAreExactlyTheStatedOnes : Prop :=
  ∀ (fa : Addr20) (s : State),
    match errorOf s.bcdPair fa (s.fetchByte fa 0) (s.fetchByte fa 1) with
    | some e => decodeRequest fa s = rejects s e
    | none => ∃ v : Insn, decodeRequest fa s = answers s v.body v.len

/-- R224: a decode error changes no state. -/
def Obligations.DecodeErrorChangesNoState : Prop :=
  ∀ (fa : Addr20) (s t : State) (e : DecodeError),
    decodeRequest fa s = .next t → t.rsp = .err e →
    t = { s with rsp := .err e } ∧ e.addr = fa ∧ (∀ a, t.memRead8 a = s.memRead8 a)

/-- R94, for every fetch address (R91): a success advances IP by the reported length modulo 2^16 and
changes nothing else. -/
def Obligations.SuccessAdvancesIpByReportedLength : Prop :=
  ∀ (fa : Addr20) (s t : State) (v : Insn),
    decodeRequest fa s = .next t → t.rsp = .ok v →
    t.ip.toNat = (s.ip.toNat + v.len) % 2 ^ 16 ∧ 1 ≤ v.len ∧ v.len ≤ 6 ∧
    t = { s with ip := t.ip, rsp := .ok v } ∧ ∀ a, t.memRead8 a = s.memRead8 a

/-- R95: a step never redirects IP: after every instruction, control transfers included, CS is as before and IP
has advanced by the length; where that does not pass 0xFFFF, the next request is at the byte right after the
instruction. -/
def Obligations.IpPointsAtTheNextInstruction : Prop :=
  ∀ (s t : State) (v : Insn), step s = .next t → t.rsp = .ok v →
    t.cs = s.cs ∧ t.ip = s.ip + BitVec.ofNat 16 v.len ∧
    (s.ip.toNat + v.len ≤ 0xFFFF → t.fetchAddr = s.fetchAddr + BitVec.ofNat 20 v.len)

/-- R68: the length depends only on the opcode and the ModR/M byte, as the table gives it. -/
def Obligations.LengthFollowsTheLengthTable : Prop :=
  ∀ (fa : Addr20) (s t : State) (v : Insn),
    decodeRequest fa s = .next t → t.rsp = .ok v →
    v.len = lengthOf (s.fetchByte fa 0) (s.fetchByte fa 1)

/-- R98: the ModR/M decoder, case by case. -/
def Obligations.ModRMDecodesAsPseudocode : Prop :=
  ∀ m : Byte,
    let mod := m.toNat / 64
    let rm := m.toNat % 8
    (modRM m).reg.toNat = (m.toNat / 8) % 8 ∧
    (mod = 3 → (modRM m).dispClass = .none ∧ (modRM m).addr = .regRef (BitVec.ofNat 3 rm)) ∧
    (mod = 0 ∧ rm = 6 → (modRM m).dispClass = .disp16 ∧ (modRM m).addr = .memForm 6) ∧
    (mod = 0 ∧ rm ≠ 6 → (modRM m).dispClass = .none ∧
      (modRM m).addr = .memForm (Fin.ofNat 24 rm)) ∧
    (mod = 1 → (modRM m).dispClass = .disp8 ∧ (modRM m).addr = .memForm (Fin.ofNat 24 (8 + rm))) ∧
    (mod = 2 → (modRM m).dispClass = .disp16 ∧ (modRM m).addr = .memForm (Fin.ofNat 24 (16 + rm)))

/-- R100: the r/m operand reader, case by case, from the ModR/M decoder's result and the bytes after it. -/
def Obligations.OperandReaderFollowsModRM : Prop :=
  ∀ (w : Width) (B : Nat → Byte),
    (readRM w B).1 = (modRM (B 1)).reg ∧
    (∀ r, (modRM (B 1)).addr = .regRef r → (readRM w B).2 = .regOp (regOf w r)) ∧
    ∀ f, (modRM (B 1)).addr = .memForm f →
      ((modRM (B 1)).dispClass = .none → (readRM w B).2 = .memOp ⟨f, .noDisp⟩) ∧
      ((modRM (B 1)).dispClass = .disp8 → (readRM w B).2 = .memOp ⟨f, .d8 (B 2)⟩) ∧
      ((modRM (B 1)).dispClass = .disp16 → (readRM w B).2 = .memOp ⟨f, .d16 (B 3 ++ B 2)⟩)

/-- R101: every memory operand of a decoded value has the displacement its form requires. -/
def Obligations.DecodedMemoryOperandsHaveFittingDisplacement : Prop :=
  ∀ (fa : Addr20) (s t : State) (v : Insn) (m : Mem),
    decodeRequest fa s = .next t → t.rsp = .ok v → m ∈ memsOf v.body → dispFits m

/-- R96: a decode depends only on the fetch address, `BCD_PAIR` and the bytes it consumes (on success also
on IP, for the advance); an error depends only on the bytes it reports. -/
def Obligations.DecodeDependsOnlyOnConsumedBytes : Prop :=
  ∀ (fa : Addr20) (s s' t : State), decodeRequest fa s = .next t → s'.bcdPair = s.bcdPair →
    (∀ v, t.rsp = .ok v → (∀ k < v.len, s'.fetchByte fa k = s.fetchByte fa k) →
      decodeRequest fa s' = answers s' v.body v.len) ∧
    (∀ e, t.rsp = .err e → (∀ k < e.bytes.length, s'.fetchByte fa k = s.fetchByte fa k) →
      decodeRequest fa s' = rejects s' e)

/-- R31: the block keeps nothing between requests and reads no register but CS and IP: two states with the
same CS, IP, memory and `BCD_PAIR` get the same answer and the same new IP. -/
def Obligations.DecodeKeepsNoStateBetweenRequests : Prop :=
  ∀ s s' : State, s'.cs = s.cs → s'.ip = s.ip → s'.mem = s.mem → s'.bcdPair = s.bcdPair →
    ∃ t t', step s = .next t ∧ step s' = .next t' ∧ t'.rsp = t.rsp ∧ t'.ip = t.ip

/-- Decoder and encoder agree (30_encoding.md): whatever follows in memory, the bytes of a well-formed
instruction decode to that instruction, every operand at every value. -/
def Obligations.DecodeOfEncodeIsIdentity : Prop :=
  ∀ (p : BcdPair) (fa : Addr20) (i : Instr) (B : Nat → Byte), i.wf p = true →
    (∀ k < i.len, B k = listByte (encode i) k) → decode p fa B = .ok i

/-- The other direction: a decoded instruction is well formed, and encoding it gives back exactly the bytes
it was decoded from. -/
def Obligations.EncodeOfDecodeIsConsumedBytes : Prop :=
  ∀ (p : BcdPair) (fa : Addr20) (i : Instr) (B : Nat → Byte), decode p fa B = .ok i →
    i.wf p = true ∧ (encode i).length = i.len ∧ ∀ k < i.len, listByte (encode i) k = B k

/-- D39: two different consumed byte sequences never give the same instruction value. -/
def Obligations.EqualValuesComeFromEqualBytes : Prop :=
  ∀ (fa fa' : Addr20) (s s' t t' : State) (v : Insn),
    decodeRequest fa s = .next t → decodeRequest fa' s' = .next t' → t.rsp = .ok v → t'.rsp = .ok v →
    ∀ k < v.len, s.fetchByte fa k = s'.fetchByte fa' k

/-- One step runs the decoded instruction: `step` is `exec` of what stands at PA(CS, IP), and the meaning
itself advances IP past the instruction's bytes; nothing is added around `exec`. -/
def Obligations.StepRunsTheDecodedInstruction : Prop :=
  ∀ s : State,
    (∀ i, decode s.bcdPair (PA s.cs s.ip) (s.fetchByte (PA s.cs s.ip)) = .ok i → step s = exec i s) ∧
    (∀ e, decode s.bcdPair (PA s.cs s.ip) (s.fetchByte (PA s.cs s.ip)) = .err e →
      step s = rejects s e)

/-- R56: fetch is coherent with writes: after any bytes have been stored at the fetch address, the next step
runs the instruction those bytes encode. -/
def Obligations.StoredInstructionIsTheNextExecuted : Prop :=
  ∀ (s : State) (i : Instr), i.wf s.bcdPair = true →
    step (s.storeBytes s.fetchAddr (encode i)) = exec i (s.storeBytes s.fetchAddr (encode i))

/-- R90, R236: every request is answered, with a next state, a value or an error on the port; so the request
after HLT or WAIT is served as well. -/
def Obligations.EveryRequestIsAnswered : Prop :=
  (∀ (fa : Addr20) (s : State), ∃ t, decodeRequest fa s = .next t ∧
    ((∃ v, t.rsp = .ok v) ∨ ∃ e, t.rsp = .err e)) ∧
  ∀ s : State, opcodeIs s 0xF4 ∨ opcodeIs s 0x9B →
    ∃ t u, step s = .next t ∧ t.ip = s.ip + 1 ∧ step t = .next u ∧
      ((∃ v, u.rsp = .ok v) ∨ ∃ e, u.rsp = .err e)

/-- A few words written out from the spec's encodings decode to their instructions (95_test_vectors.md). -/
def Obligations.WrittenOutWordsDecode : Prop :=
  decode .ascii 0 (listByte [0xB0, 0x05]) = .ok (.movR8Imm8 .al 0x05) ∧
  decode .ascii 0 (listByte [0xB8, 0x34, 0x12]) = .ok (.movR16Imm16 .ax 0x1234) ∧
  decode .ascii 0 (listByte [0x89, 0xD8]) = .ok (.movRm16R16 (.regOp .ax) .bx) ∧
  decode .ascii 0 (listByte [0xC7, 0x86, 0x34, 0x12, 0x78, 0x56]) =
    .ok (.movRm16Imm16 (.memOp ⟨22, .d16 0x1234⟩) 0x5678) ∧
  decode .ascii 0 (listByte [0x74, 0xFE]) = .ok (.je 0xFE) ∧
  decode .decimal 0 (listByte [0x27]) = .ok .daa

/-! ### Every instruction's own effect: it completes, and what it answers -/

/-- R120-R127: the MOV instructions complete in every state, emitting their value with its length. -/
def Obligations.MovInstructionsEmitTheirValues : Prop :=
  ∀ (s : State) (dst src : Register) (sr : SReg) (rm : RM) (b : Byte) (w : Word),
    exec (.movR8Imm8 dst b) s = answers s (.movRegImm dst (.i8 b)) 2 ∧
    exec (.movR16Imm16 dst w) s = answers s (.movRegImm dst (.i16 w)) 3 ∧
    exec (.movAlMoffs8 w) s = answers s (.movAccMem .byte w) 3 ∧
    exec (.movAxMoffs16 w) s = answers s (.movAccMem .word w) 3 ∧
    exec (.movMoffs8Al w) s = answers s (.movMemAcc .byte w) 3 ∧
    exec (.movMoffs16Ax w) s = answers s (.movMemAcc .word w) 3 ∧
    exec (.movRm8R8 rm src) s = answers s (.movRmReg .byte rm src) (2 + rm.dlen) ∧
    exec (.movRm16R16 rm src) s = answers s (.movRmReg .word rm src) (2 + rm.dlen) ∧
    exec (.movR8Rm8 dst rm) s = answers s (.movRegRm .byte dst rm) (2 + rm.dlen) ∧
    exec (.movR16Rm16 dst rm) s = answers s (.movRegRm .word dst rm) (2 + rm.dlen) ∧
    exec (.movRm16Sreg rm sr) s = answers s (.movRmSreg rm sr) (2 + rm.dlen) ∧
    exec (.movSregRm16 sr rm) s = answers s (.movSregRm sr rm) (2 + rm.dlen) ∧
    exec (.movRm8Imm8 rm b) s = answers s (.movRmImm .byte rm (.i8 b)) (3 + rm.dlen) ∧
    exec (.movRm16Imm16 rm w) s = answers s (.movRmImm .word rm (.i16 w)) (4 + rm.dlen)

/-- R129-R131: LEA, LES and LDS complete in every state. -/
def Obligations.PointerLoadsEmitTheirValues : Prop :=
  ∀ (s : State) (dst : Register) (m : Mem),
    exec (.leaR16M dst m) s = answers s (.lea dst m) (2 + m.dlen) ∧
    exec (.lesR16M32 dst m) s = answers s (.les dst m) (2 + m.dlen) ∧
    exec (.ldsR16M32 dst m) s = answers s (.lds dst m) (2 + m.dlen)

/-- R95, R141-R148: the control transfers complete in every state, and IP only advances by the length. -/
def Obligations.ControlTransfersEmitTheirValues : Prop :=
  ∀ (s : State) (r : Byte) (a : Word),
    exec (.jo r) s = answers s (.jcc .o r) 2 ∧ exec (.jno r) s = answers s (.jcc .no r) 2 ∧
    exec (.jb r) s = answers s (.jcc .b r) 2 ∧ exec (.jae r) s = answers s (.jcc .ae r) 2 ∧
    exec (.je r) s = answers s (.jcc .e r) 2 ∧ exec (.jne r) s = answers s (.jcc .ne r) 2 ∧
    exec (.jbe r) s = answers s (.jcc .be r) 2 ∧ exec (.ja r) s = answers s (.jcc .a r) 2 ∧
    exec (.js r) s = answers s (.jcc .s r) 2 ∧ exec (.jns r) s = answers s (.jcc .ns r) 2 ∧
    exec (.jp r) s = answers s (.jcc .p r) 2 ∧ exec (.jnp r) s = answers s (.jcc .np r) 2 ∧
    exec (.jl r) s = answers s (.jcc .l r) 2 ∧ exec (.jge r) s = answers s (.jcc .ge r) 2 ∧
    exec (.jle r) s = answers s (.jcc .le r) 2 ∧ exec (.jg r) s = answers s (.jcc .g r) 2 ∧
    exec (.loopnz r) s = answers s (.loop .nz r) 2 ∧ exec (.loopz r) s = answers s (.loop .z r) 2 ∧
    exec (.loop r) s = answers s (.loop .always r) 2 ∧ exec (.jcxz r) s = answers s (.jcxz r) 2 ∧
    exec .ret s = answers s (.ret false none) 1 ∧
    exec (.retImm16 a) s = answers s (.ret false (some a)) 3 ∧
    exec .retf s = answers s (.ret true none) 1 ∧
    exec (.retfImm16 a) s = answers s (.ret true (some a)) 3

/-- R160-R162, R170-R177: the software interrupts and the I/O instructions complete in every state. -/
def Obligations.InterruptAndPortInstructionsEmitTheirValues : Prop :=
  ∀ (s : State) (b : Byte),
    exec .int3 s = answers s .int3 1 ∧ exec (.intImm8 b) s = answers s (.int b) 2 ∧
    exec .into s = answers s .into 1 ∧
    exec (.inAlImm8 b) s = answers s (.inp .byte (.fixed b)) 2 ∧
    exec (.inAxImm8 b) s = answers s (.inp .word (.fixed b)) 2 ∧
    exec .inAlDx s = answers s (.inp .byte .dx) 1 ∧ exec .inAxDx s = answers s (.inp .word .dx) 1 ∧
    exec (.outImm8Al b) s = answers s (.outp .byte (.fixed b)) 2 ∧
    exec (.outImm8Ax b) s = answers s (.outp .word (.fixed b)) 2 ∧
    exec .outDxAl s = answers s (.outp .byte .dx) 1 ∧ exec .outDxAx s = answers s (.outp .word .dx) 1

/-- R180-R210: the flag, prefix and no-operand instructions complete in every state. -/
def Obligations.FlagAndPrefixInstructionsEmitTheirValues : Prop :=
  ∀ (s : State) (b : Byte),
    exec .hlt s = answers s (.simple .hlt) 1 ∧ exec .nop s = answers s (.simple .nop) 1 ∧
    exec .wait s = answers s (.simple .wait) 1 ∧ exec .lock s = answers s (.simple .lock) 1 ∧
    exec .segEs s = answers s (.seg .es) 1 ∧ exec .segCs s = answers s (.seg .cs) 1 ∧
    exec .segSs s = answers s (.seg .ss) 1 ∧ exec .segDs s = answers s (.seg .ds) 1 ∧
    exec .repne s = answers s (.rep false) 1 ∧ exec .rep s = answers s (.rep true) 1 ∧
    exec .stc s = answers s (.simple .stc) 1 ∧ exec .clc s = answers s (.simple .clc) 1 ∧
    exec .cmc s = answers s (.simple .cmc) 1 ∧ exec .std s = answers s (.simple .std) 1 ∧
    exec .cld s = answers s (.simple .cld) 1 ∧ exec .sti s = answers s (.simple .sti) 1 ∧
    exec .cli s = answers s (.simple .cli) 1 ∧ exec .cbw s = answers s (.simple .cbw) 1 ∧
    exec .cwd s = answers s (.simple .cwd) 1 ∧ exec .lahf s = answers s (.simple .lahf) 1 ∧
    exec .sahf s = answers s (.simple .sahf) 1 ∧ exec .pushf s = answers s (.simple .pushf) 1 ∧
    exec .popf s = answers s (.simple .popf) 1 ∧ exec .iret s = answers s (.simple .iret) 1 ∧
    exec .xlat s = answers s (.simple .xlat) 1 ∧ exec .aaa s = answers s (.simple .aaa) 1 ∧
    exec .aas s = answers s (.simple .aas) 1 ∧ exec (.aamImm8 b) s = answers s (.aam b) 2 ∧
    exec (.aadImm8 b) s = answers s (.aad b) 2 ∧ exec .daa s = answers s (.simple .daa) 1 ∧
    exec .das s = answers s (.simple .das) 1

/-- R32, R29: the frame of every instruction: no register but IP, no flag, no byte of memory and no parameter
changes. -/
def Obligations.EveryInstructionLeavesAllButIpUnchanged : Prop :=
  ∀ (i : Instr) (s t : State), exec i s = .next t →
    t.ax = s.ax ∧ t.bx = s.bx ∧ t.cx = s.cx ∧ t.dx = s.dx ∧ t.sp = s.sp ∧ t.bp = s.bp ∧
    t.si = s.si ∧ t.di = s.di ∧ t.cs = s.cs ∧ t.ds = s.ds ∧ t.es = s.es ∧ t.ss = s.ss ∧
    t.flags = s.flags ∧ t.bcdPair = s.bcdPair ∧ ∀ a, t.memRead8 a = s.memRead8 a

/-! ### From bytes in memory to the answer, family by family (the Decode lines of files 41-45) -/

/-- R120: B0-B7 and B8-BF, all registers and all immediates. -/
def Obligations.MovRegImmDecodesFromBytes : Prop :=
  ∀ (s : State) (r : BitVec 3),
    (opcodeIs s (BitVec.ofNat 8 (0xB0 + r.toNat)) →
      step s = answers s (.movRegImm (regOf .byte r) (.i8 (fetched s 1))) 2) ∧
    (opcodeIs s (BitVec.ofNat 8 (0xB8 + r.toNat)) →
      step s = answers s (.movRegImm (regOf .word r) (.i16 (fetchedWord s 1))) 3)

/-- R121, R122: A0-A3. -/
def Obligations.MovAccumulatorDecodesFromBytes : Prop :=
  ∀ s : State,
    (opcodeIs s 0xA0 → step s = answers s (.movAccMem .byte (fetchedWord s 1)) 3) ∧
    (opcodeIs s 0xA1 → step s = answers s (.movAccMem .word (fetchedWord s 1)) 3) ∧
    (opcodeIs s 0xA2 → step s = answers s (.movMemAcc .byte (fetchedWord s 1)) 3) ∧
    (opcodeIs s 0xA3 → step s = answers s (.movMemAcc .word (fetchedWord s 1)) 3)

/-- R123, R124: 88-8B; every ModR/M value is legal. -/
def Obligations.MovRegisterMemoryDecodesFromBytes : Prop :=
  ∀ s : State,
    let r8 := readRM .byte (fetched s)
    let r16 := readRM .word (fetched s)
    (opcodeIs s 0x88 → step s = answers s (.movRmReg .byte r8.2 (regOf .byte r8.1)) (2 + r8.2.dlen)) ∧
    (opcodeIs s 0x89 → step s = answers s (.movRmReg .word r16.2 (regOf .word r16.1)) (2 + r16.2.dlen)) ∧
    (opcodeIs s 0x8A → step s = answers s (.movRegRm .byte (regOf .byte r8.1) r8.2) (2 + r8.2.dlen)) ∧
    (opcodeIs s 0x8B → step s = answers s (.movRegRm .word (regOf .word r16.1) r16.2) (2 + r16.2.dlen))

/-- R125, R126: 8C and 8E: the value where the reg field names a segment register, UnknownSubform where it
does not. -/
def Obligations.MovSegmentRegisterDecodesFromBytes : Prop :=
  ∀ s : State,
    let r := readRM .word (fetched s)
    (∀ sr, SReg.ofNum r.1 = some sr →
      (opcodeIs s 0x8C → step s = answers s (.movRmSreg r.2 sr) (2 + r.2.dlen)) ∧
      (opcodeIs s 0x8E → step s = answers s (.movSregRm sr r.2) (2 + r.2.dlen))) ∧
    (SReg.ofNum r.1 = none → opcodeIs s 0x8C ∨ opcodeIs s 0x8E →
      step s = rejects s ⟨.unknownSubform, s.fetchAddr, [fetched s 0, fetched s 1]⟩)

/-- R127: C6 and C7: the immediate follows the displacement; a reg field other than 000 is UnknownOpcode with
two bytes. -/
def Obligations.MovImmediateToOperandDecodesFromBytes : Prop :=
  ∀ s : State,
    let r8 := readRM .byte (fetched s)
    let r16 := readRM .word (fetched s)
    (opcodeIs s 0xC6 → r8.1 = 0 →
      step s = answers s (.movRmImm .byte r8.2 (.i8 (fetched s (2 + r8.2.dlen)))) (3 + r8.2.dlen)) ∧
    (opcodeIs s 0xC7 → r16.1 = 0 →
      step s = answers s (.movRmImm .word r16.2 (.i16 (fetchedWord s (2 + r16.2.dlen))))
        (4 + r16.2.dlen)) ∧
    (opcodeIs s 0xC6 ∨ opcodeIs s 0xC7 → r8.1 ≠ 0 →
      step s = rejects s ⟨.unknownOpcode, s.fetchAddr, [fetched s 0, fetched s 1]⟩)

/-- R128-R131: 8D, C4 and C5: memory operands only; a register operand is InvalidOperandEncoding. -/
def Obligations.PointerLoadsDecodeFromBytes : Prop :=
  ∀ s : State,
    let r := readRM .word (fetched s)
    (∀ m, r.2 = .memOp m →
      (opcodeIs s 0x8D → step s = answers s (.lea (regOf .word r.1) m) (2 + m.dlen)) ∧
      (opcodeIs s 0xC4 → step s = answers s (.les (regOf .word r.1) m) (2 + m.dlen)) ∧
      (opcodeIs s 0xC5 → step s = answers s (.lds (regOf .word r.1) m) (2 + m.dlen))) ∧
    (∀ g, r.2 = .regOp g → opcodeIs s 0x8D ∨ opcodeIs s 0xC4 ∨ opcodeIs s 0xC5 →
      step s = rejects s ⟨.invalidOperandEncoding, s.fetchAddr, [fetched s 0, fetched s 1]⟩)

/-- R140, R141: 70-7F: all 16 conditions in index order, whatever the flags. -/
def Obligations.ConditionalJumpsDecodeFromBytes : Prop :=
  ∀ (s : State) (n : Fin 16), opcodeIs s (BitVec.ofNat 8 (0x70 + n.val)) →
    step s = answers s
      (.jcc ([Cond.o, .no, .b, .ae, .e, .ne, .be, .a, .s, .ns, .p, .np, .l, .ge, .le, .g].get n)
        (fetched s 1)) 2

/-- R142-R148: E0-E3, C2, C3, CA and CB. -/
def Obligations.LoopsAndReturnsDecodeFromBytes : Prop :=
  ∀ s : State,
    (opcodeIs s 0xE0 → step s = answers s (.loop .nz (fetched s 1)) 2) ∧
    (opcodeIs s 0xE1 → step s = answers s (.loop .z (fetched s 1)) 2) ∧
    (opcodeIs s 0xE2 → step s = answers s (.loop .always (fetched s 1)) 2) ∧
    (opcodeIs s 0xE3 → step s = answers s (.jcxz (fetched s 1)) 2) ∧
    (opcodeIs s 0xC3 → step s = answers s (.ret false none) 1) ∧
    (opcodeIs s 0xC2 → step s = answers s (.ret false (some (fetchedWord s 1))) 3) ∧
    (opcodeIs s 0xCB → step s = answers s (.ret true none) 1) ∧
    (opcodeIs s 0xCA → step s = answers s (.ret true (some (fetchedWord s 1))) 3)

/-- R160-R162, R170-R177: CC, CD, CE, E4-E7 and EC-EF. -/
def Obligations.InterruptAndPortInstructionsDecodeFromBytes : Prop :=
  ∀ s : State,
    (opcodeIs s 0xCC → step s = answers s .int3 1) ∧
    (opcodeIs s 0xCD → step s = answers s (.int (fetched s 1)) 2) ∧
    (opcodeIs s 0xCE → step s = answers s .into 1) ∧
    (opcodeIs s 0xE4 → step s = answers s (.inp .byte (.fixed (fetched s 1))) 2) ∧
    (opcodeIs s 0xE5 → step s = answers s (.inp .word (.fixed (fetched s 1))) 2) ∧
    (opcodeIs s 0xE6 → step s = answers s (.outp .byte (.fixed (fetched s 1))) 2) ∧
    (opcodeIs s 0xE7 → step s = answers s (.outp .word (.fixed (fetched s 1))) 2) ∧
    (opcodeIs s 0xEC → step s = answers s (.inp .byte .dx) 1) ∧
    (opcodeIs s 0xED → step s = answers s (.inp .word .dx) 1) ∧
    (opcodeIs s 0xEE → step s = answers s (.outp .byte .dx) 1) ∧
    (opcodeIs s 0xEF → step s = answers s (.outp .word .dx) 1)

/-- R180-R211: the no-operand group, under each `BCD_PAIR`. -/
def Obligations.NoOperandInstructionsDecodeFromBytes : Prop :=
  ∀ s : State,
    (∀ x ∈ [((0xF4 : Byte), NoOp.hlt), (0x90, .nop), (0x9B, .wait), (0xF0, .lock), (0xF9, .stc),
        (0xF8, .clc), (0xF5, .cmc), (0xFD, .std), (0xFC, .cld), (0xFB, .sti), (0xFA, .cli), (0x98, .cbw),
        (0x99, .cwd), (0x9F, .lahf), (0x9E, .sahf), (0x9C, .pushf), (0x9D, .popf), (0xCF, .iret),
        (0xD7, .xlat)], opcodeIs s x.1 → step s = answers s (.simple x.2) 1) ∧
    (opcodeIs s 0xD4 → step s = answers s (.aam (fetched s 1)) 2) ∧
    (opcodeIs s 0xD5 → step s = answers s (.aad (fetched s 1)) 2) ∧
    (s.bcdPair = .ascii → (opcodeIs s 0x37 → step s = answers s (.simple .aaa) 1) ∧
      (opcodeIs s 0x3F → step s = answers s (.simple .aas) 1)) ∧
    (s.bcdPair = .decimal → (opcodeIs s 0x27 → step s = answers s (.simple .daa) 1) ∧
      (opcodeIs s 0x2F → step s = answers s (.simple .das) 1))

/-- R74, R184-R189, R183: a prefix byte is a complete instruction of length 1, and the next decode starts at
the byte after it, with no prefix joined to it. -/
def Obligations.PrefixesAreInstructionsOfTheirOwn : Prop :=
  ∀ s : State, ∀ x ∈ [((0x26 : Byte), Body.seg .es), (0x2E, .seg .cs), (0x36, .seg .ss), (0x3E, .seg .ds),
      (0xF0, .simple .lock), (0xF2, .rep false), (0xF3, .rep true)],
    opcodeIs s x.1 → ∃ t, step s = .next t ∧ Spec.answers s x.2 1 = .next t ∧
      t.fetchAddr = PA s.cs (s.ip + 1) ∧
      ∀ i, decode s.bcdPair (PA s.cs (s.ip + 1)) (s.fetchByte (PA s.cs (s.ip + 1))) = .ok i →
        step t = exec i t

/-! ### Agents, invariants and runs -/

/-- R32: which agent writes which state. -/
def Obligations.EachAgentWritesOnlyItsOwnState : Prop :=
  ∀ (x : Action) (s t : State), act x s = .next t →
    match x with
    | .decodeAt _ => SameButIpAndRsp s t ∧ ∀ e, t.rsp = .err e → t.ip = s.ip
    | .decodeNext => SameButIpAndRsp s t ∧ ∀ e, t.rsp = .err e → t.ip = s.ip
    | .load seg off image =>
      t = { s with cs := seg, ds := seg, es := seg, ss := seg, ip := off, mem := t.mem } ∧
      ∀ a, (∀ i < image.length, a ≠ PA seg off + BitVec.ofNat 20 i) → t.memRead8 a = s.memRead8 a
    | .push _ => t = { s with sp := t.sp, mem := t.mem } ∧
      ∀ a, a ≠ PA s.ss t.sp → a ≠ PA s.ss t.sp + 1 → t.memRead8 a = s.memRead8 a
    | .pop => t = { s with sp := t.sp }
    | .writeReg r _ => t.cs = s.cs ∧ t.ds = s.ds ∧ t.es = s.es ∧ t.ss = s.ss ∧ t.ip = s.ip ∧
      t.flags = s.flags ∧ t.mem = s.mem ∧ t.bcdPair = s.bcdPair ∧ t.rsp = s.rsp ∧
      ∀ q, parentOf q ≠ parentOf r → t.getReg q = s.getReg q
    | .writeSReg r _ => (∀ q, q ≠ r → t.getSReg q = s.getSReg q) ∧
      t = { s with cs := t.cs, ds := t.ds, es := t.es, ss := t.ss }
    | .writeIp v => t = { s with ip := v }
    | .writeFlags v => t = { s with flags := v }
    | .writeFlag _ _ => t = { s with flags := t.flags }
    | .writeMem8 _ _ => t = { s with mem := t.mem }
    | .writeMem16 _ _ => t = { s with mem := t.mem }

/-- R251: the loader places the image byte for byte in contiguous physical memory, sets the four segment
registers and IP, and leaves every other register and every other byte. -/
def Obligations.LoaderPlacesImageAndSetsEntry : Prop :=
  Config.loadSeg = 0x1000 ∧ Config.loadOff = 0x0100 ∧
  ∀ (s : State) (seg off : Word) (image : List Byte), image.length ≤ 2 ^ 20 →
    let t := s.load seg off image
    (∀ i, (h : i < image.length) → t.memRead8 (PA seg off + BitVec.ofNat 20 i) = image[i]) ∧
    (∀ a, (∀ i < image.length, a ≠ PA seg off + BitVec.ofNat 20 i) → t.memRead8 a = s.memRead8 a) ∧
    t = { s with cs := seg, ds := seg, es := seg, ss := seg, ip := off, mem := t.mem }

/-- R252: after construction and the default load, the first request is at 0x10100, and it runs the
instruction the image begins with. -/
def Obligations.FirstDecodeAfterDefaultLoadRunsImageHead : Prop :=
  ∀ (i : Instr) (rest : List Byte), i.wf .ascii = true → (encode i ++ rest).length ≤ 2 ^ 20 →
    let s := State.reset.load Config.loadSeg Config.loadOff (encode i ++ rest)
    s.fetchAddr = 0x10100 ∧ step s = exec i s

/-- The invariant holds at construction: memory is canonical and the port shows a legal answer. -/
def Obligations.ConstructionMeetsInvariant : Prop := State.reset.Inv

/-- Every step keeps the invariant, from every state that meets it: memory stays canonical, and what stands on
the port is a legal instruction value with its exact length (R101-R103) or one of the stated decode errors
(R220-R223). -/
def Obligations.StepKeepsInvariant : Prop :=
  ∀ s t : State, s.Inv → step s = .next t → t.Inv

/-- Every action of every agent, in any order, keeps the invariant. -/
def Obligations.AnyInterleavingOfAgentsKeepsInvariant : Prop :=
  ∀ (xs : List Action) (s t : State), s.Inv → runActions xs s = .next t → t.Inv

/-- R225: no sequence of requests, loads, stack operations and register or memory accesses ends in a fault or
a refusal. -/
def Obligations.NoRunFaultsOrIsRefused : Prop := ∀ (xs : List Action) (s : State), SafeRun xs s

/-! ### The reference execution stage (general knowledge of the spec, not behaviour of the block: assumption 13) -/

/-- R64, R106, R107: the effective address and the default segment, form by form. -/
def Obligations.StageEffectiveAddressFollowsFormTable : Prop :=
  ∀ (s : State) (m : Mem),
    s.ea m = eaOf s (m.form.val % 8) (decide (m.form.val = 6)) +
      (match m.disp with | .noDisp => 0 | .d8 d => d.signExtend 16 | .d16 d => d) ∧
    (defaultSeg m.form = .ss ↔ m.form.val ∈ [2, 3, 10, 11, 14, 18, 19, 22]) ∧
    (defaultSeg m.form = .ds ↔ m.form.val ∉ [2, 3, 10, 11, 14, 18, 19, 22])

/-- R140, R141, R149: a conditional jump executed after its decode goes to IP_after + sext(rel) when its test
holds, and falls through when it does not. -/
def Obligations.StageConditionalJumpBranchesOnItsTest : Prop :=
  ∀ (t : StageState) (rel : Byte),
    let cf := t.core.getFlag .cf; let zf := t.core.getFlag .zf; let sf := t.core.getFlag .sf
    let ovf := t.core.getFlag .ovf; let pf := t.core.getFlag .pf
    let tests : List (Cond × Bool) :=
      [(.o, ovf), (.no, !ovf), (.b, cf), (.ae, !cf), (.e, zf), (.ne, !zf), (.be, cf || zf),
        (.a, !cf && !zf), (.s, sf), (.ns, !sf), (.p, pf), (.np, !pf), (.l, sf != ovf), (.ge, sf == ovf),
        (.le, zf || (sf != ovf)), (.g, !zf && (sf == ovf))]
    ∀ x ∈ tests, ((t.execute ⟨.jcc x.1 rel, 2⟩).core =
      { t.core with ip := if x.2 then t.core.ip + rel.signExtend 16 else t.core.ip })

/-- R142, R143, R144: LOOPcc decrements CX and branches on CX and ZF; JCXZ branches when CX is 0. -/
def Obligations.StageLoopsCountDownAndBranch : Prop :=
  ∀ (t : StageState) (rel : Byte),
    let n := t.core.cx - 1
    let zf := t.core.getFlag .zf
    let target := t.core.ip + rel.signExtend 16
    (∀ x ∈ [(LoopCond.nz, !zf), (.z, zf), (.always, true)],
      (t.execute ⟨.loop x.1 rel, 2⟩).core =
        { t.core with cx := n, ip := if n ≠ 0 ∧ x.2 = true then target else t.core.ip }) ∧
    (t.execute ⟨.jcxz rel, 2⟩).core =
      { t.core with ip := if t.core.cx = 0 then target else t.core.ip }

/-- R122, R123, R125, R127: every MOV to memory (88, 89, 8C, A2, A3, C6, C7) stores its byte or word at its
operand's address, the segment override applied (R106, R107), and nowhere else; nothing else of the core changes,
and the pending prefixes are spent (assumption 14). -/
def Obligations.StageMovStoresAtOperandAddressOnly : Prop :=
  ∀ (t : StageState) (m : Mem) (src : Register) (sr : SReg) (addr imm : Word) (b : Byte),
    let s := t.core
    let operand := PA (s.getSReg (t.ovr.getD (defaultSeg m.form))) (s.ea m)
    let direct := PA (s.getSReg (t.ovr.getD .ds)) addr
    (∀ x ∈ [((⟨.movRmReg .byte (.memOp m) src, 2 + m.dlen⟩ : Insn), operand, loByte (s.getReg src)),
        (⟨.movRmImm .byte (.memOp m) (.i8 b), 3 + m.dlen⟩, operand, b),
        (⟨.movMemAcc .byte addr, 3⟩, direct, loByte s.ax)],
      (t.execute x.1).core.memRead8 x.2.1 = x.2.2 ∧
      (∀ c, c ≠ x.2.1 → (t.execute x.1).core.memRead8 c = s.memRead8 c) ∧
      onlyMemoryAndPrefixesChange t (t.execute x.1)) ∧
    ∀ x ∈ [((⟨.movRmReg .word (.memOp m) src, 2 + m.dlen⟩ : Insn), operand, s.getReg src),
        (⟨.movRmImm .word (.memOp m) (.i16 imm), 4 + m.dlen⟩, operand, imm),
        (⟨.movRmSreg (.memOp m) sr, 2 + m.dlen⟩, operand, s.getSReg sr),
        (⟨.movMemAcc .word addr, 3⟩, direct, s.ax)],
      (t.execute x.1).core.memRead16 x.2.1 = x.2.2 ∧
      (∀ c, c ≠ x.2.1 → c ≠ x.2.1 + 1 → (t.execute x.1).core.memRead8 c = s.memRead8 c) ∧
      onlyMemoryAndPrefixesChange t (t.execute x.1)

/-- R161, R207: an interrupt followed by an interrupt return gives the state back, but for the three words it
pushed: every other byte of memory reads as before (assumption 17). -/
def Obligations.StageInterruptReturnUndoesInterrupt : Prop :=
  ∀ (s : State) (vector : Byte),
    let t := (s.interrupt vector).interruptReturn
    t = { s with mem := t.mem } ∧
    ∀ a, (∀ off ∈ [s.sp - 2, s.sp - 4, s.sp - 6], a ≠ PA s.ss off ∧ a ≠ PA s.ss off + 1) →
      t.memRead8 a = s.memRead8 a

/-- R229, R259, R260: one stage step is one decode and then the execution of the value it answered; on a decode
error the stepping stops with that error. -/
def Obligations.StageStepIsDecodeThenExecute : Prop :=
  ∀ t : StageState, t.halted = false →
    (∀ s v, Machine.step t.core = .next s → s.rsp = .ok v →
      t.step = .next (StageState.execute { t with core := s } v)) ∧
    (∀ s e, Machine.step t.core = .next s → s.rsp = .err e → t.step = .fault (.decodeError e))
end

