-- ==== Sys2Proof/Laws/Decode.lean ====
section
/-! SUPPORT. The small facts about fields that the round trip of decoder and encoder rests on. -/

namespace Sys2Proof.Laws

/-- A word is its two bytes, low byte first. -/
@[simp] theorem wordOf_loByte_hiByte (v : Word) : wordOf (loByte v) (hiByte v) = v := by
  apply BitVec.eq_of_getLsbD_eq
  intro i hi
  simp only [wordOf, loByte, hiByte, BitVec.getLsbD_append, BitVec.getLsbD_extractLsb']
  by_cases h : i < 8
  · simp [h]
  · simp [h, show i - 8 < 8 by omega, show 8 + (i - 8) = i by omega]

@[simp] theorem loByte_wordOf (lo hi : Byte) : loByte (wordOf lo hi) = lo := by
  apply BitVec.eq_of_getLsbD_eq
  intro i h
  simp only [wordOf, loByte, BitVec.getLsbD_extractLsb', BitVec.getLsbD_append]
  simp [h]

@[simp] theorem hiByte_wordOf (lo hi : Byte) : hiByte (wordOf lo hi) = hi := by
  apply BitVec.eq_of_getLsbD_eq
  intro i h
  simp only [wordOf, hiByte, BitVec.getLsbD_extractLsb', BitVec.getLsbD_append]
  simp [h]

/-- A register is found again from its width and number. -/
theorem regOf_num {w : Width} {r : Register} (h : r.width = w) : regOf w r.num = r := by
  subst h; cases r <;> rfl

theorem num_regOf (w : Width) (n : BitVec 3) : (regOf w n).num = n := by
  cases w <;> revert n <;> decide

theorem width_regOf (w : Width) (n : BitVec 3) : (regOf w n).width = w := by
  cases w <;> revert n <;> decide

/-- A segment register is found again from its number. -/
@[simp] theorem ofNum_num (r : SReg) : SReg.ofNum r.num = some r := by
  cases r <;> rfl

theorem num_ofNum {n : BitVec 3} {r : SReg} (h : SReg.ofNum n = some r) : r.num = n := by
  revert n r; decide

/-- The ModR/M byte of a register operand decodes to that register (R98). -/
theorem modRM_regByte (reg rm : BitVec 3) :
    modRM (modRMByte 0b11 reg rm) = ⟨reg, .none, .regRef rm⟩ := by
  revert reg rm; decide

/-- The displacement class that belongs to a form (R65). -/
def formClass (form : Fin 24) : DispClass :=
  if form.val = 6 then .disp16
  else if form.val < 8 then .none
  else if form.val < 16 then .disp8
  else .disp16

/-- The ModR/M byte of a memory form decodes to that form with its displacement class (R64, R65, R98). -/
theorem modRM_formByte (reg : BitVec 3) (form : Fin 24) :
    modRM (modRMByte (BitVec.ofNat 2 (form.val / 8)) reg (BitVec.ofNat 3 (form.val % 8)))
      = ⟨reg, formClass form, .memForm form⟩ := by
  revert reg form; decide

/-- Every ModR/M byte is put together again from its three fields (R62). -/
theorem modRMByte_fields (m : Byte) : modRMByte (modField m) (regField m) (rmField m) = m := by
  revert m; decide

/-- The form of a ModR/M byte with mod ≠ 11, and its class, in numbers (R64, R65, R98). -/
theorem modRM_memForm {m : Byte} {f : Fin 24} (h : (modRM m).addr = .memForm f) :
    f.val = 8 * (modField m).toNat + (rmField m).toNat ∧ (modRM m).dispClass = formClass f := by
  revert m f; decide

theorem modRM_reg (m : Byte) : (modRM m).reg = regField m := by
  revert m; decide

/-- The reader's reg field is the ModR/M byte's (R100). -/
@[simp] theorem readRM_fst (w : Width) (B : Nat → Byte) : (readRM w B).1 = regField (B 1) := by
  rw [← modRM_reg]
  simp only [readRM]
  cases (modRM (B 1)).addr with
  | regRef r => rfl
  | memForm f => cases (modRM (B 1)).dispClass <;> rfl

/-- The displacement the reader builds for a class fits its form (R101). -/
theorem readRM_wf (w : Width) (B : Nat → Byte) : (readRM w B).2.wf w = true := by
  cases ha : (modRM (B 1)).addr with
  | regRef r => simp [readRM, ha, RM.wf, width_regOf]
  | memForm f =>
    have hc := (modRM_memForm ha).2
    cases hd : (modRM (B 1)).dispClass <;> rw [hd] at hc <;>
      simp only [readRM, ha, hd, RM.wf, Mem.wf] <;>
      (unfold formClass at hc; split at hc <;> try split at hc) <;>
      (try split at hc) <;> simp_all

/-- The displacement length of a class (R65). -/
def DispClass.len : DispClass → Nat
  | .none => 0
  | .disp8 => 1
  | .disp16 => 2

/-- The operand's displacement length follows from the ModR/M byte alone (R65, R68). -/
theorem readRM_dlen (w : Width) (B : Nat → Byte) :
    (readRM w B).2.dlen = DispClass.len (modRM (B 1)).dispClass := by
  cases ha : (modRM (B 1)).addr with
  | regRef r =>
    have : (modRM (B 1)).dispClass = .none := by
      revert ha; generalize B 1 = m; revert m r; decide
    simp [readRM, ha, this, RM.dlen, DispClass.len]
  | memForm f => cases hd : (modRM (B 1)).dispClass <;> simp [readRM, ha, hd] <;> rfl

/-- The reader's operand encodes back to the bytes it was read from (R62, R64, R67). -/
theorem rmBytes_readRM (w : Width) (B : Nat → Byte) :
    ∀ k < 1 + (readRM w B).2.dlen, ((readRM w B).2.bytes (regField (B 1))).getD k 0 = B (k + 1) := by
  have hm := modRMByte_fields (B 1)
  cases ha : (modRM (B 1)).addr with
  | regRef r =>
    have h3 : r = rmField (B 1) ∧ modField (B 1) = 3 := by
      revert ha; generalize B 1 = m; revert m r; decide
    obtain ⟨rfl, h4⟩ := h3
    rw [h4] at hm
    intro k hk
    simp only [readRM, ha, RM.dlen] at hk
    obtain rfl : k = 0 := by omega
    simpa [readRM, ha, RM.bytes, num_regOf] using hm
  | memForm f =>
    have hf := (modRM_memForm ha).1
    have hr := (rmField (B 1)).isLt
    have hmod := (modField (B 1)).isLt
    have e1 : BitVec.ofNat 2 (f.val / 8) = modField (B 1) := by
      apply BitVec.eq_of_toNat_eq; simp; omega
    have e2 : BitVec.ofNat 3 (f.val % 8) = rmField (B 1) := by
      apply BitVec.eq_of_toNat_eq; simp; omega
    cases hd : (modRM (B 1)).dispClass <;>
      simp only [readRM, ha, hd, RM.dlen, RM.bytes, Mem.bytes, Mem.dlen, Disp.len, Disp.bytes, wordBytes,
        e1, e2, hm, loByte_wordOf, hiByte_wordOf] <;>
      intro k hk
    · obtain rfl : k = 0 := by omega
      simp
    · rcases (by omega : k = 0 ∨ k = 1) with rfl | rfl <;> simp
    · rcases (by omega : k = 0 ∨ k = 1 ∨ k = 2) with rfl | rfl | rfl <;> simp

/-- A displacement that fits its form (R101) has the form's class. -/
theorem memWf_class {m : Mem} (h : m.wf = true) :
    match formClass m.form with
    | .none => m.disp = .noDisp
    | .disp8 => ∃ d, m.disp = .d8 d
    | .disp16 => ∃ d, m.disp = .d16 d := by
  obtain ⟨f, d⟩ := m
  have hlt : f.val < 24 := f.isLt
  by_cases c6 : f.val = 6 <;> by_cases c8 : f.val < 8 <;> by_cases c16 : f.val < 16 <;>
    cases d <;>
    simp only [Mem.wf, Bool.and_eq_true, Bool.or_eq_true, decide_eq_true_eq, ne_eq] at h <;>
    first
    | (exfalso; omega)
    | simp [formClass, c6, c8, c16]

/-- An operand whose bytes stand from offset 1 on is read back, with the reg field (R98, R100). -/
theorem readRM_of_rmBytes {w : Width} {rm : RM} {reg : BitVec 3} {B : Nat → Byte} (hw : rm.wf w = true)
    (h : ∀ k < 1 + rm.dlen, B (k + 1) = (rm.bytes reg).getD k 0) : readRM w B = (reg, rm) := by
  have h0 := h 0 (by omega)
  cases rm with
  | regOp r =>
    have h0 : B 1 = modRMByte 0b11 reg r.num := h0
    have hr : r.width = w := by simpa [RM.wf] using hw
    simp only [readRM, h0, modRM_regByte, regOf_num hr]
  | memOp m =>
    have h0 : B 1 = modRMByte (BitVec.ofNat 2 (m.form.val / 8)) reg (BitVec.ofNat 3 (m.form.val % 8)) := h0
    have hc := memWf_class (m := m) hw
    obtain ⟨f, d⟩ := m
    simp only [readRM, h0, modRM_formByte]
    cases hf : formClass f <;> simp only [hf] at hc
    · simp [hc]
    · obtain ⟨x, rfl⟩ := hc
      have h1 : B 2 = x := h 1 (by simp [RM.dlen, Mem.dlen, Disp.len])
      simp [h1]
    · obtain ⟨x, rfl⟩ := hc
      have h1 : B 2 = loByte x := h 1 (by simp [RM.dlen, Mem.dlen, Disp.len])
      have h2 : B 3 = hiByte x := h 2 (by simp [RM.dlen, Mem.dlen, Disp.len])
      simp [h1, h2]

end Sys2Proof.Laws
end

