-- ==== Sys2Proof/Laws/Dispatch.lean ====
section
/-! SUPPORT. The opcode map read backwards: which first bytes a family has (30_encoding.md R69). -/

namespace Sys2Proof.Laws

theorem dispatch_movRI {p : BcdPair} {op : Byte} (h : dispatchMap p op = some .movRI) :
    ∃ r : BitVec 3, op = BitVec.ofNat 8 (0xB0 + r.toNat) ∨ op = BitVec.ofNat 8 (0xB8 + r.toNat) := by
  cases p <;> revert op <;> decide

theorem dispatch_movAcc {p : BcdPair} {op : Byte} (h : dispatchMap p op = some .movAcc) :
    op = 0xA0 ∨ op = 0xA1 ∨ op = 0xA2 ∨ op = 0xA3 := by
  cases p <;> revert op <;> decide

theorem dispatch_movRM {p : BcdPair} {op : Byte} (h : dispatchMap p op = some .movRM) :
    op = 0x88 ∨ op = 0x89 ∨ op = 0x8A ∨ op = 0x8B := by
  cases p <;> revert op <;> decide

theorem dispatch_movSreg {p : BcdPair} {op : Byte} (h : dispatchMap p op = some .movSreg) :
    op = 0x8C ∨ op = 0x8E := by
  cases p <;> revert op <;> decide

theorem dispatch_movRMI {p : BcdPair} {op : Byte} (h : dispatchMap p op = some .movRMI) :
    op = 0xC6 ∨ op = 0xC7 := by
  cases p <;> revert op <;> decide

theorem dispatch_ptr {p : BcdPair} {op : Byte} (h : dispatchMap p op = some .ptr) :
    op = 0x8D ∨ op = 0xC4 ∨ op = 0xC5 := by
  cases p <;> revert op <;> decide

theorem dispatch_jcc {p : BcdPair} {op : Byte} (h : dispatchMap p op = some .jcc) :
    ∃ n : Fin 16, op = BitVec.ofNat 8 (0x70 + n.val) := by
  cases p <;> revert op <;> decide

theorem dispatch_loop {p : BcdPair} {op : Byte} (h : dispatchMap p op = some .loop) :
    op = 0xE0 ∨ op = 0xE1 ∨ op = 0xE2 ∨ op = 0xE3 := by
  cases p <;> revert op <;> decide

theorem dispatch_ret {p : BcdPair} {op : Byte} (h : dispatchMap p op = some .ret) :
    op = 0xC2 ∨ op = 0xC3 ∨ op = 0xCA ∨ op = 0xCB := by
  cases p <;> revert op <;> decide

theorem dispatch_int {p : BcdPair} {op : Byte} (h : dispatchMap p op = some .int) :
    op = 0xCC ∨ op = 0xCD ∨ op = 0xCE := by
  cases p <;> revert op <;> decide

theorem dispatch_io {p : BcdPair} {op : Byte} (h : dispatchMap p op = some .io) :
    op = 0xE4 ∨ op = 0xE5 ∨ op = 0xE6 ∨ op = 0xE7 ∨ op = 0xEC ∨ op = 0xED ∨ op = 0xEE ∨ op = 0xEF := by
  cases p <;> revert op <;> decide

theorem dispatch_noop {p : BcdPair} {op : Byte} (h : dispatchMap p op = some .noop) :
    (oneByteNoOp p op).isSome = true ∨ op = 0xD4 ∨ op = 0xD5 := by
  cases p <;> revert op <;> decide

/-- A one-byte instruction encodes to the byte it was decoded from, has length 1, and is well formed. -/
theorem oneByteNoOp_spec {p : BcdPair} {op : Byte} {i : Instr} (h : oneByteNoOp p op = some i) :
    encode i = [op] ∧ i.len = 1 ∧ i.wf p = true := by
  have key : ∀ p op, (match oneByteNoOp p op with
      | some i => decide (encode i = [op]) && decide (i.len = 1) && i.wf p
      | none => true) = true := by intro p; cases p <;> decide
  have := key p op
  rw [h] at this
  simpa [and_assoc] using this

end Sys2Proof.Laws
end

