-- ==== Sys2Proof/Laws/State.lean ====
section
/-! SUPPORT. One lemma per field and update of the state, so that no later proof unfolds a record update. -/

namespace Sys2Proof.Laws

open Sys2Proof.Machine

@[simp] theorem memWrite8_ax (s : State) (a : Addr20) (v : Byte) :
    (s.memWrite8 a v).ax = s.ax := rfl

@[simp] theorem memWrite8_bx (s : State) (a : Addr20) (v : Byte) :
    (s.memWrite8 a v).bx = s.bx := rfl

@[simp] theorem memWrite8_cx (s : State) (a : Addr20) (v : Byte) :
    (s.memWrite8 a v).cx = s.cx := rfl

@[simp] theorem memWrite8_dx (s : State) (a : Addr20) (v : Byte) :
    (s.memWrite8 a v).dx = s.dx := rfl

@[simp] theorem memWrite8_sp (s : State) (a : Addr20) (v : Byte) :
    (s.memWrite8 a v).sp = s.sp := rfl

@[simp] theorem memWrite8_bp (s : State) (a : Addr20) (v : Byte) :
    (s.memWrite8 a v).bp = s.bp := rfl

@[simp] theorem memWrite8_si (s : State) (a : Addr20) (v : Byte) :
    (s.memWrite8 a v).si = s.si := rfl

@[simp] theorem memWrite8_di (s : State) (a : Addr20) (v : Byte) :
    (s.memWrite8 a v).di = s.di := rfl

@[simp] theorem memWrite8_cs (s : State) (a : Addr20) (v : Byte) :
    (s.memWrite8 a v).cs = s.cs := rfl

@[simp] theorem memWrite8_ds (s : State) (a : Addr20) (v : Byte) :
    (s.memWrite8 a v).ds = s.ds := rfl

@[simp] theorem memWrite8_es (s : State) (a : Addr20) (v : Byte) :
    (s.memWrite8 a v).es = s.es := rfl

@[simp] theorem memWrite8_ss (s : State) (a : Addr20) (v : Byte) :
    (s.memWrite8 a v).ss = s.ss := rfl

@[simp] theorem memWrite8_ip (s : State) (a : Addr20) (v : Byte) :
    (s.memWrite8 a v).ip = s.ip := rfl

@[simp] theorem memWrite8_flags (s : State) (a : Addr20) (v : Byte) :
    (s.memWrite8 a v).flags = s.flags := rfl

@[simp] theorem memWrite8_bcdPair (s : State) (a : Addr20) (v : Byte) :
    (s.memWrite8 a v).bcdPair = s.bcdPair := rfl

@[simp] theorem memWrite8_rsp (s : State) (a : Addr20) (v : Byte) :
    (s.memWrite8 a v).rsp = s.rsp := rfl

@[simp] theorem memWrite16_ax (s : State) (a : Addr20) (v : Word) :
    (s.memWrite16 a v).ax = s.ax := rfl

@[simp] theorem memWrite16_bx (s : State) (a : Addr20) (v : Word) :
    (s.memWrite16 a v).bx = s.bx := rfl

@[simp] theorem memWrite16_cx (s : State) (a : Addr20) (v : Word) :
    (s.memWrite16 a v).cx = s.cx := rfl

@[simp] theorem memWrite16_dx (s : State) (a : Addr20) (v : Word) :
    (s.memWrite16 a v).dx = s.dx := rfl

@[simp] theorem memWrite16_sp (s : State) (a : Addr20) (v : Word) :
    (s.memWrite16 a v).sp = s.sp := rfl

@[simp] theorem memWrite16_bp (s : State) (a : Addr20) (v : Word) :
    (s.memWrite16 a v).bp = s.bp := rfl

@[simp] theorem memWrite16_si (s : State) (a : Addr20) (v : Word) :
    (s.memWrite16 a v).si = s.si := rfl

@[simp] theorem memWrite16_di (s : State) (a : Addr20) (v : Word) :
    (s.memWrite16 a v).di = s.di := rfl

@[simp] theorem memWrite16_cs (s : State) (a : Addr20) (v : Word) :
    (s.memWrite16 a v).cs = s.cs := rfl

@[simp] theorem memWrite16_ds (s : State) (a : Addr20) (v : Word) :
    (s.memWrite16 a v).ds = s.ds := rfl

@[simp] theorem memWrite16_es (s : State) (a : Addr20) (v : Word) :
    (s.memWrite16 a v).es = s.es := rfl

@[simp] theorem memWrite16_ss (s : State) (a : Addr20) (v : Word) :
    (s.memWrite16 a v).ss = s.ss := rfl

@[simp] theorem memWrite16_ip (s : State) (a : Addr20) (v : Word) :
    (s.memWrite16 a v).ip = s.ip := rfl

@[simp] theorem memWrite16_flags (s : State) (a : Addr20) (v : Word) :
    (s.memWrite16 a v).flags = s.flags := rfl

@[simp] theorem memWrite16_bcdPair (s : State) (a : Addr20) (v : Word) :
    (s.memWrite16 a v).bcdPair = s.bcdPair := rfl

@[simp] theorem memWrite16_rsp (s : State) (a : Addr20) (v : Word) :
    (s.memWrite16 a v).rsp = s.rsp := rfl

@[simp] theorem setIp_ax (s : State) (v : Word) :
    (s.setIp v).ax = s.ax := rfl

@[simp] theorem setIp_bx (s : State) (v : Word) :
    (s.setIp v).bx = s.bx := rfl

@[simp] theorem setIp_cx (s : State) (v : Word) :
    (s.setIp v).cx = s.cx := rfl

@[simp] theorem setIp_dx (s : State) (v : Word) :
    (s.setIp v).dx = s.dx := rfl

@[simp] theorem setIp_sp (s : State) (v : Word) :
    (s.setIp v).sp = s.sp := rfl

@[simp] theorem setIp_bp (s : State) (v : Word) :
    (s.setIp v).bp = s.bp := rfl

@[simp] theorem setIp_si (s : State) (v : Word) :
    (s.setIp v).si = s.si := rfl

@[simp] theorem setIp_di (s : State) (v : Word) :
    (s.setIp v).di = s.di := rfl

@[simp] theorem setIp_cs (s : State) (v : Word) :
    (s.setIp v).cs = s.cs := rfl

@[simp] theorem setIp_ds (s : State) (v : Word) :
    (s.setIp v).ds = s.ds := rfl

@[simp] theorem setIp_es (s : State) (v : Word) :
    (s.setIp v).es = s.es := rfl

@[simp] theorem setIp_ss (s : State) (v : Word) :
    (s.setIp v).ss = s.ss := rfl

@[simp] theorem setIp_ip (s : State) (v : Word) :
    (s.setIp v).ip = v := rfl

@[simp] theorem setIp_flags (s : State) (v : Word) :
    (s.setIp v).flags = s.flags := rfl

@[simp] theorem setIp_mem (s : State) (v : Word) :
    (s.setIp v).mem = s.mem := rfl

@[simp] theorem setIp_bcdPair (s : State) (v : Word) :
    (s.setIp v).bcdPair = s.bcdPair := rfl

@[simp] theorem setIp_rsp (s : State) (v : Word) :
    (s.setIp v).rsp = s.rsp := rfl

@[simp] theorem setFlags_ax (s : State) (v : Word) :
    (s.setFlags v).ax = s.ax := rfl

@[simp] theorem setFlags_bx (s : State) (v : Word) :
    (s.setFlags v).bx = s.bx := rfl

@[simp] theorem setFlags_cx (s : State) (v : Word) :
    (s.setFlags v).cx = s.cx := rfl

@[simp] theorem setFlags_dx (s : State) (v : Word) :
    (s.setFlags v).dx = s.dx := rfl

@[simp] theorem setFlags_sp (s : State) (v : Word) :
    (s.setFlags v).sp = s.sp := rfl

@[simp] theorem setFlags_bp (s : State) (v : Word) :
    (s.setFlags v).bp = s.bp := rfl

@[simp] theorem setFlags_si (s : State) (v : Word) :
    (s.setFlags v).si = s.si := rfl

@[simp] theorem setFlags_di (s : State) (v : Word) :
    (s.setFlags v).di = s.di := rfl

@[simp] theorem setFlags_cs (s : State) (v : Word) :
    (s.setFlags v).cs = s.cs := rfl

@[simp] theorem setFlags_ds (s : State) (v : Word) :
    (s.setFlags v).ds = s.ds := rfl

@[simp] theorem setFlags_es (s : State) (v : Word) :
    (s.setFlags v).es = s.es := rfl

@[simp] theorem setFlags_ss (s : State) (v : Word) :
    (s.setFlags v).ss = s.ss := rfl

@[simp] theorem setFlags_ip (s : State) (v : Word) :
    (s.setFlags v).ip = s.ip := rfl

@[simp] theorem setFlags_flags (s : State) (v : Word) :
    (s.setFlags v).flags = v := rfl

@[simp] theorem setFlags_mem (s : State) (v : Word) :
    (s.setFlags v).mem = s.mem := rfl

@[simp] theorem setFlags_bcdPair (s : State) (v : Word) :
    (s.setFlags v).bcdPair = s.bcdPair := rfl

@[simp] theorem setFlags_rsp (s : State) (v : Word) :
    (s.setFlags v).rsp = s.rsp := rfl

@[simp] theorem setFlag_ax (s : State) (f : Flag) (b : Bool) :
    (s.setFlag f b).ax = s.ax := rfl

@[simp] theorem setFlag_bx (s : State) (f : Flag) (b : Bool) :
    (s.setFlag f b).bx = s.bx := rfl

@[simp] theorem setFlag_cx (s : State) (f : Flag) (b : Bool) :
    (s.setFlag f b).cx = s.cx := rfl

@[simp] theorem setFlag_dx (s : State) (f : Flag) (b : Bool) :
    (s.setFlag f b).dx = s.dx := rfl

@[simp] theorem setFlag_sp (s : State) (f : Flag) (b : Bool) :
    (s.setFlag f b).sp = s.sp := rfl

@[simp] theorem setFlag_bp (s : State) (f : Flag) (b : Bool) :
    (s.setFlag f b).bp = s.bp := rfl

@[simp] theorem setFlag_si (s : State) (f : Flag) (b : Bool) :
    (s.setFlag f b).si = s.si := rfl

@[simp] theorem setFlag_di (s : State) (f : Flag) (b : Bool) :
    (s.setFlag f b).di = s.di := rfl

@[simp] theorem setFlag_cs (s : State) (f : Flag) (b : Bool) :
    (s.setFlag f b).cs = s.cs := rfl

@[simp] theorem setFlag_ds (s : State) (f : Flag) (b : Bool) :
    (s.setFlag f b).ds = s.ds := rfl

@[simp] theorem setFlag_es (s : State) (f : Flag) (b : Bool) :
    (s.setFlag f b).es = s.es := rfl

@[simp] theorem setFlag_ss (s : State) (f : Flag) (b : Bool) :
    (s.setFlag f b).ss = s.ss := rfl

@[simp] theorem setFlag_ip (s : State) (f : Flag) (b : Bool) :
    (s.setFlag f b).ip = s.ip := rfl

@[simp] theorem setFlag_flags (s : State) (f : Flag) (b : Bool) :
    (s.setFlag f b).flags = flagPut s.flags f b := rfl

@[simp] theorem setFlag_mem (s : State) (f : Flag) (b : Bool) :
    (s.setFlag f b).mem = s.mem := rfl

@[simp] theorem setFlag_bcdPair (s : State) (f : Flag) (b : Bool) :
    (s.setFlag f b).bcdPair = s.bcdPair := rfl

@[simp] theorem setFlag_rsp (s : State) (f : Flag) (b : Bool) :
    (s.setFlag f b).rsp = s.rsp := rfl

@[simp] theorem setSReg_ax (s : State) (r : SReg) (v : Word) :
    (s.setSReg r v).ax = s.ax := by cases r <;> rfl

@[simp] theorem setSReg_bx (s : State) (r : SReg) (v : Word) :
    (s.setSReg r v).bx = s.bx := by cases r <;> rfl

@[simp] theorem setSReg_cx (s : State) (r : SReg) (v : Word) :
    (s.setSReg r v).cx = s.cx := by cases r <;> rfl

@[simp] theorem setSReg_dx (s : State) (r : SReg) (v : Word) :
    (s.setSReg r v).dx = s.dx := by cases r <;> rfl

@[simp] theorem setSReg_sp (s : State) (r : SReg) (v : Word) :
    (s.setSReg r v).sp = s.sp := by cases r <;> rfl

@[simp] theorem setSReg_bp (s : State) (r : SReg) (v : Word) :
    (s.setSReg r v).bp = s.bp := by cases r <;> rfl

@[simp] theorem setSReg_si (s : State) (r : SReg) (v : Word) :
    (s.setSReg r v).si = s.si := by cases r <;> rfl

@[simp] theorem setSReg_di (s : State) (r : SReg) (v : Word) :
    (s.setSReg r v).di = s.di := by cases r <;> rfl

@[simp] theorem setSReg_ip (s : State) (r : SReg) (v : Word) :
    (s.setSReg r v).ip = s.ip := by cases r <;> rfl

@[simp] theorem setSReg_flags (s : State) (r : SReg) (v : Word) :
    (s.setSReg r v).flags = s.flags := by cases r <;> rfl

@[simp] theorem setSReg_mem (s : State) (r : SReg) (v : Word) :
    (s.setSReg r v).mem = s.mem := by cases r <;> rfl

@[simp] theorem setSReg_bcdPair (s : State) (r : SReg) (v : Word) :
    (s.setSReg r v).bcdPair = s.bcdPair := by cases r <;> rfl

@[simp] theorem setSReg_rsp (s : State) (r : SReg) (v : Word) :
    (s.setSReg r v).rsp = s.rsp := by cases r <;> rfl

@[simp] theorem setReg_cs (s : State) (r : Register) (v : Word) :
    (s.setReg r v).cs = s.cs := by cases r <;> rfl

@[simp] theorem setReg_ds (s : State) (r : Register) (v : Word) :
    (s.setReg r v).ds = s.ds := by cases r <;> rfl

@[simp] theorem setReg_es (s : State) (r : Register) (v : Word) :
    (s.setReg r v).es = s.es := by cases r <;> rfl

@[simp] theorem setReg_ss (s : State) (r : Register) (v : Word) :
    (s.setReg r v).ss = s.ss := by cases r <;> rfl

@[simp] theorem setReg_ip (s : State) (r : Register) (v : Word) :
    (s.setReg r v).ip = s.ip := by cases r <;> rfl

@[simp] theorem setReg_flags (s : State) (r : Register) (v : Word) :
    (s.setReg r v).flags = s.flags := by cases r <;> rfl

@[simp] theorem setReg_mem (s : State) (r : Register) (v : Word) :
    (s.setReg r v).mem = s.mem := by cases r <;> rfl

@[simp] theorem setReg_bcdPair (s : State) (r : Register) (v : Word) :
    (s.setReg r v).bcdPair = s.bcdPair := by cases r <;> rfl

@[simp] theorem setReg_rsp (s : State) (r : Register) (v : Word) :
    (s.setReg r v).rsp = s.rsp := by cases r <;> rfl

@[simp] theorem push_ax (s : State) (v : Word) :
    (s.push v).ax = s.ax := rfl

@[simp] theorem push_bx (s : State) (v : Word) :
    (s.push v).bx = s.bx := rfl

@[simp] theorem push_cx (s : State) (v : Word) :
    (s.push v).cx = s.cx := rfl

@[simp] theorem push_dx (s : State) (v : Word) :
    (s.push v).dx = s.dx := rfl

@[simp] theorem push_sp (s : State) (v : Word) :
    (s.push v).sp = s.sp - 2 := rfl

@[simp] theorem push_bp (s : State) (v : Word) :
    (s.push v).bp = s.bp := rfl

@[simp] theorem push_si (s : State) (v : Word) :
    (s.push v).si = s.si := rfl

@[simp] theorem push_di (s : State) (v : Word) :
    (s.push v).di = s.di := rfl

@[simp] theorem push_cs (s : State) (v : Word) :
    (s.push v).cs = s.cs := rfl

@[simp] theorem push_ds (s : State) (v : Word) :
    (s.push v).ds = s.ds := rfl

@[simp] theorem push_es (s : State) (v : Word) :
    (s.push v).es = s.es := rfl

@[simp] theorem push_ss (s : State) (v : Word) :
    (s.push v).ss = s.ss := rfl

@[simp] theorem push_ip (s : State) (v : Word) :
    (s.push v).ip = s.ip := rfl

@[simp] theorem push_flags (s : State) (v : Word) :
    (s.push v).flags = s.flags := rfl

@[simp] theorem push_bcdPair (s : State) (v : Word) :
    (s.push v).bcdPair = s.bcdPair := rfl

@[simp] theorem push_rsp (s : State) (v : Word) :
    (s.push v).rsp = s.rsp := rfl

@[simp] theorem pop_ax (s : State) :
    s.pop.2.ax = s.ax := rfl

@[simp] theorem pop_bx (s : State) :
    s.pop.2.bx = s.bx := rfl

@[simp] theorem pop_cx (s : State) :
    s.pop.2.cx = s.cx := rfl

@[simp] theorem pop_dx (s : State) :
    s.pop.2.dx = s.dx := rfl

@[simp] theorem pop_sp (s : State) :
    s.pop.2.sp = s.sp + 2 := rfl

@[simp] theorem pop_bp (s : State) :
    s.pop.2.bp = s.bp := rfl

@[simp] theorem pop_si (s : State) :
    s.pop.2.si = s.si := rfl

@[simp] theorem pop_di (s : State) :
    s.pop.2.di = s.di := rfl

@[simp] theorem pop_cs (s : State) :
    s.pop.2.cs = s.cs := rfl

@[simp] theorem pop_ds (s : State) :
    s.pop.2.ds = s.ds := rfl

@[simp] theorem pop_es (s : State) :
    s.pop.2.es = s.es := rfl

@[simp] theorem pop_ss (s : State) :
    s.pop.2.ss = s.ss := rfl

@[simp] theorem pop_ip (s : State) :
    s.pop.2.ip = s.ip := rfl

@[simp] theorem pop_flags (s : State) :
    s.pop.2.flags = s.flags := rfl

@[simp] theorem pop_mem (s : State) :
    s.pop.2.mem = s.mem := rfl

@[simp] theorem pop_bcdPair (s : State) :
    s.pop.2.bcdPair = s.bcdPair := rfl

@[simp] theorem pop_rsp (s : State) :
    s.pop.2.rsp = s.rsp := rfl

@[simp] theorem storeBytes_ax (s : State) (a : Addr20) (l : List Byte) :
    (s.storeBytes a l).ax = s.ax := by
  induction l generalizing s a with
  | nil => rfl
  | cons b l ih => rw [State.storeBytes, ih, memWrite8_ax]

@[simp] theorem storeBytes_bx (s : State) (a : Addr20) (l : List Byte) :
    (s.storeBytes a l).bx = s.bx := by
  induction l generalizing s a with
  | nil => rfl
  | cons b l ih => rw [State.storeBytes, ih, memWrite8_bx]

@[simp] theorem storeBytes_cx (s : State) (a : Addr20) (l : List Byte) :
    (s.storeBytes a l).cx = s.cx := by
  induction l generalizing s a with
  | nil => rfl
  | cons b l ih => rw [State.storeBytes, ih, memWrite8_cx]

@[simp] theorem storeBytes_dx (s : State) (a : Addr20) (l : List Byte) :
    (s.storeBytes a l).dx = s.dx := by
  induction l generalizing s a with
  | nil => rfl
  | cons b l ih => rw [State.storeBytes, ih, memWrite8_dx]

@[simp] theorem storeBytes_sp (s : State) (a : Addr20) (l : List Byte) :
    (s.storeBytes a l).sp = s.sp := by
  induction l generalizing s a with
  | nil => rfl
  | cons b l ih => rw [State.storeBytes, ih, memWrite8_sp]

@[simp] theorem storeBytes_bp (s : State) (a : Addr20) (l : List Byte) :
    (s.storeBytes a l).bp = s.bp := by
  induction l generalizing s a with
  | nil => rfl
  | cons b l ih => rw [State.storeBytes, ih, memWrite8_bp]

@[simp] theorem storeBytes_si (s : State) (a : Addr20) (l : List Byte) :
    (s.storeBytes a l).si = s.si := by
  induction l generalizing s a with
  | nil => rfl
  | cons b l ih => rw [State.storeBytes, ih, memWrite8_si]

@[simp] theorem storeBytes_di (s : State) (a : Addr20) (l : List Byte) :
    (s.storeBytes a l).di = s.di := by
  induction l generalizing s a with
  | nil => rfl
  | cons b l ih => rw [State.storeBytes, ih, memWrite8_di]

@[simp] theorem storeBytes_cs (s : State) (a : Addr20) (l : List Byte) :
    (s.storeBytes a l).cs = s.cs := by
  induction l generalizing s a with
  | nil => rfl
  | cons b l ih => rw [State.storeBytes, ih, memWrite8_cs]

@[simp] theorem storeBytes_ds (s : State) (a : Addr20) (l : List Byte) :
    (s.storeBytes a l).ds = s.ds := by
  induction l generalizing s a with
  | nil => rfl
  | cons b l ih => rw [State.storeBytes, ih, memWrite8_ds]

@[simp] theorem storeBytes_es (s : State) (a : Addr20) (l : List Byte) :
    (s.storeBytes a l).es = s.es := by
  induction l generalizing s a with
  | nil => rfl
  | cons b l ih => rw [State.storeBytes, ih, memWrite8_es]

@[simp] theorem storeBytes_ss (s : State) (a : Addr20) (l : List Byte) :
    (s.storeBytes a l).ss = s.ss := by
  induction l generalizing s a with
  | nil => rfl
  | cons b l ih => rw [State.storeBytes, ih, memWrite8_ss]

@[simp] theorem storeBytes_ip (s : State) (a : Addr20) (l : List Byte) :
    (s.storeBytes a l).ip = s.ip := by
  induction l generalizing s a with
  | nil => rfl
  | cons b l ih => rw [State.storeBytes, ih, memWrite8_ip]

@[simp] theorem storeBytes_flags (s : State) (a : Addr20) (l : List Byte) :
    (s.storeBytes a l).flags = s.flags := by
  induction l generalizing s a with
  | nil => rfl
  | cons b l ih => rw [State.storeBytes, ih, memWrite8_flags]

@[simp] theorem storeBytes_bcdPair (s : State) (a : Addr20) (l : List Byte) :
    (s.storeBytes a l).bcdPair = s.bcdPair := by
  induction l generalizing s a with
  | nil => rfl
  | cons b l ih => rw [State.storeBytes, ih, memWrite8_bcdPair]

@[simp] theorem storeBytes_rsp (s : State) (a : Addr20) (l : List Byte) :
    (s.storeBytes a l).rsp = s.rsp := by
  induction l generalizing s a with
  | nil => rfl
  | cons b l ih => rw [State.storeBytes, ih, memWrite8_rsp]

@[simp] theorem load_ax (s : State) (seg off : Word) (image : List Byte) :
    (s.load seg off image).ax = s.ax := by simp [State.load]

@[simp] theorem load_bx (s : State) (seg off : Word) (image : List Byte) :
    (s.load seg off image).bx = s.bx := by simp [State.load]

@[simp] theorem load_cx (s : State) (seg off : Word) (image : List Byte) :
    (s.load seg off image).cx = s.cx := by simp [State.load]

@[simp] theorem load_dx (s : State) (seg off : Word) (image : List Byte) :
    (s.load seg off image).dx = s.dx := by simp [State.load]

@[simp] theorem load_sp (s : State) (seg off : Word) (image : List Byte) :
    (s.load seg off image).sp = s.sp := by simp [State.load]

@[simp] theorem load_bp (s : State) (seg off : Word) (image : List Byte) :
    (s.load seg off image).bp = s.bp := by simp [State.load]

@[simp] theorem load_si (s : State) (seg off : Word) (image : List Byte) :
    (s.load seg off image).si = s.si := by simp [State.load]

@[simp] theorem load_di (s : State) (seg off : Word) (image : List Byte) :
    (s.load seg off image).di = s.di := by simp [State.load]

@[simp] theorem load_cs (s : State) (seg off : Word) (image : List Byte) :
    (s.load seg off image).cs = seg := rfl

@[simp] theorem load_ds (s : State) (seg off : Word) (image : List Byte) :
    (s.load seg off image).ds = seg := rfl

@[simp] theorem load_es (s : State) (seg off : Word) (image : List Byte) :
    (s.load seg off image).es = seg := rfl

@[simp] theorem load_ss (s : State) (seg off : Word) (image : List Byte) :
    (s.load seg off image).ss = seg := rfl

@[simp] theorem load_ip (s : State) (seg off : Word) (image : List Byte) :
    (s.load seg off image).ip = off := rfl

@[simp] theorem load_flags (s : State) (seg off : Word) (image : List Byte) :
    (s.load seg off image).flags = s.flags := by simp [State.load]

@[simp] theorem load_bcdPair (s : State) (seg off : Word) (image : List Byte) :
    (s.load seg off image).bcdPair = s.bcdPair := by simp [State.load]

@[simp] theorem load_rsp (s : State) (seg off : Word) (image : List Byte) :
    (s.load seg off image).rsp = s.rsp := by simp [State.load]

end Sys2Proof.Laws
end

