-- ==== Sys2Proof/Laws/Memory.lean ====
section
/-! SUPPORT. The memory list: what a read finds after a write, and that a write keeps the canonical form. -/

namespace Sys2Proof.Laws

open Sys2Proof.Machine

/-- Reading the written address finds the written byte. -/
@[simp] theorem find_set_self (m : Memory) (a : Nat) (v : Byte) :
    Memory.find (Memory.set m a v) a = some v := by
  induction m with
  | nil => simp [Memory.set, Memory.find]
  | cons c m ih =>
    simp only [Memory.set]
    split
    · simp [Memory.find]
    · split
      · simp [Memory.find]
      · rename_i h1 h2
        simp [Memory.find, ih, Ne.symm h2]

/-- Reading another address finds what it found before. -/
theorem find_set_of_ne (m : Memory) {a b : Nat} (v : Byte) (h : b ≠ a) :
    Memory.find (Memory.set m a v) b = Memory.find m b := by
  induction m with
  | nil => simp [Memory.set, Memory.find, Ne.symm h]
  | cons c m ih =>
    simp only [Memory.set]
    split
    · simp [Memory.find, Ne.symm h]
    · split
      · rename_i h1 h2
        simp [Memory.find, ← h2, Ne.symm h]
      · simp [Memory.find, ih]

theorem risingFrom_mono {m : Memory} {lo lo' : Nat} (h : lo' ≤ lo)
    (hm : Memory.risingFrom lo m = true) : Memory.risingFrom lo' m = true := by
  cases m with
  | nil => rfl
  | cons c m =>
    simp only [Memory.risingFrom, Bool.and_eq_true, decide_eq_true_eq] at hm ⊢
    exact ⟨by omega, hm.2⟩

theorem risingFrom_set {m : Memory} {lo a : Nat} (v : Byte) (ha : lo ≤ a)
    (hm : Memory.risingFrom lo m = true) : Memory.risingFrom lo (Memory.set m a v) = true := by
  induction m generalizing lo with
  | nil => simp [Memory.set, Memory.risingFrom, ha]
  | cons c m ih =>
    simp only [Memory.risingFrom, Bool.and_eq_true, decide_eq_true_eq] at hm
    simp only [Memory.set]
    split
    · simp only [Memory.risingFrom, Bool.and_eq_true, decide_eq_true_eq]
      exact ⟨ha, by omega, hm.2⟩
    · split
      · rename_i h
        simp only [Memory.risingFrom, Bool.and_eq_true, decide_eq_true_eq]
        exact ⟨ha, h ▸ hm.2⟩
      · simp only [Memory.risingFrom, Bool.and_eq_true, decide_eq_true_eq]
        exact ⟨hm.1, ih (by omega) hm.2⟩

theorem all_set {m : Memory} {a : Nat} (v : Byte) {P : Host.Cell → Bool} (ha : P (a, v) = true)
    (hm : m.all P = true) : (Memory.set m a v).all P = true := by
  induction m with
  | nil => simp [Memory.set, ha]
  | cons c m ih =>
    simp only [List.all_cons, Bool.and_eq_true] at hm
    simp only [Memory.set]
    split
    · simp [ha, hm]
    · split
      · simp [ha, hm]
      · simp [hm.1, ih hm.2]

/-- A write below 2^20 keeps the canonical form. -/
theorem wf_set {m : Memory} {a : Nat} (v : Byte) (ha : a < 2 ^ 20) (hm : m.wf = true) :
    (Memory.set m a v).wf = true := by
  simp only [Memory.wf, Bool.and_eq_true] at hm ⊢
  exact ⟨risingFrom_set v (Nat.zero_le a) hm.1, all_set v (by simpa using ha) hm.2⟩

theorem find_eq_none_of_rising {m : Memory} {lo a : Nat} (h : a < lo)
    (hm : Memory.risingFrom lo m = true) : Memory.find m a = none := by
  induction m generalizing lo with
  | nil => rfl
  | cons c m ih =>
    simp only [Memory.risingFrom, Bool.and_eq_true, decide_eq_true_eq] at hm
    have hc : c.1 ≠ a := by omega
    simp [Memory.find, hc, ih (by omega : a < c.1 + 1) hm.2]

theorem rising_ext {m n : Memory} {lo : Nat} (hm : Memory.risingFrom lo m = true)
    (hn : Memory.risingFrom lo n = true) (h : ∀ a, Memory.find m a = Memory.find n a) : m = n := by
  induction m generalizing n lo with
  | nil =>
    cases n with
    | nil => rfl
    | cons d n => simpa [Memory.find] using h d.1
  | cons c m ih =>
    cases n with
    | nil => simpa [Memory.find] using h c.1
    | cons d n =>
      simp only [Memory.risingFrom, Bool.and_eq_true, decide_eq_true_eq] at hm hn
      have key : c.1 = d.1 := by
        rcases Nat.lt_trichotomy c.1 d.1 with hlt | heq | hgt
        · have hc := h c.1
          have hd : d.1 ≠ c.1 := by omega
          simp [Memory.find, hd, find_eq_none_of_rising (by omega : c.1 < d.1 + 1) hn.2] at hc
        · exact heq
        · have hd := h d.1
          have hc : c.1 ≠ d.1 := by omega
          simp [Memory.find, hc, find_eq_none_of_rising (by omega : d.1 < c.1 + 1) hm.2] at hd
      have hv : c.2 = d.2 := by simpa [Memory.find, key] using h c.1
      have htail : m = n := by
        refine ih hm.2 (key ▸ hn.2) fun a => ?_
        rcases Decidable.em (c.1 = a) with hca | hca
        · rw [find_eq_none_of_rising (by omega : a < c.1 + 1) hm.2,
            find_eq_none_of_rising (by omega : a < d.1 + 1) hn.2]
        · have := h a
          have hda : d.1 ≠ a := key ▸ hca
          simpa [Memory.find, hca, hda] using this
      rw [htail, Prod.ext key hv]

/-- Two canonical memories that list the same written bytes are equal data. -/
theorem wf_ext {m n : Memory} (hm : m.wf = true) (hn : n.wf = true)
    (h : ∀ a, Memory.find m a = Memory.find n a) : m = n := by
  simp only [Memory.wf, Bool.and_eq_true] at hm hn
  exact rising_ext hm.1 hn.1 h

/-! ### Reads after writes, on the state -/

@[simp] theorem memRead8_memWrite8_self (s : State) (a : Addr20) (v : Byte) :
    (s.memWrite8 a v).memRead8 a = v := by
  simp [State.memRead8, State.memWrite8]

theorem memRead8_memWrite8_of_ne (s : State) {a b : Addr20} (v : Byte) (h : b ≠ a) :
    (s.memWrite8 a v).memRead8 b = s.memRead8 b := by
  have hn : b.toNat ≠ a.toNat := fun e => h (BitVec.eq_of_toNat_eq e)
  simp [State.memRead8, State.memWrite8, find_set_of_ne s.mem v hn]

/-- A read depends on the memory only. -/
theorem memRead8_congr {s t : State} (h : s.mem = t.mem) (a : Addr20) : s.memRead8 a = t.memRead8 a := by
  simp only [State.memRead8, h]

/-- Every write keeps the canonical form. -/
theorem memWrite8_wf (s : State) (a : Addr20) (v : Byte) (h : s.mem.wf = true) :
    (s.memWrite8 a v).mem.wf = true := wf_set v a.isLt h

theorem memWrite16_wf (s : State) (a : Addr20) (v : Word) (h : s.mem.wf = true) :
    (s.memWrite16 a v).mem.wf = true := memWrite8_wf _ _ _ (memWrite8_wf _ _ _ h)

theorem storeBytes_wf (s : State) (a : Addr20) (l : List Byte) (h : s.mem.wf = true) :
    (s.storeBytes a l).mem.wf = true := by
  induction l generalizing s a with
  | nil => exact h
  | cons b l ih => exact ih _ _ (memWrite8_wf _ _ _ h)

theorem push_wf (s : State) (v : Word) (h : s.mem.wf = true) : (s.push v).mem.wf = true :=
  memWrite16_wf _ _ _ h

theorem load_wf (s : State) (seg off : Word) (image : List Byte) (h : s.mem.wf = true) :
    (s.load seg off image).mem.wf = true := storeBytes_wf _ _ _ h

theorem reset_mem_wf : State.reset.mem.wf = true := rfl

end Sys2Proof.Laws
end

