-- ==== Sys2Proof/Laws/Ops.lean ====
section
/-! SUPPORT. What the shared operations do, said once: addresses as numbers, words in memory, bytes stored
in a row, register halves, flag bits. -/

namespace Sys2Proof.Laws

open Sys2Proof.Machine

/-- The next address is another address. -/
theorem succ_ne (a : Addr20) : a + 1 ≠ a := by bv_omega

/-- The physical address as a number (R40). -/
theorem toNat_PA (seg off : Word) : (PA seg off).toNat = (seg.toNat * 16 + off.toNat) % 2 ^ 20 := by
  have h1 : seg.toNat < 2 ^ 16 := seg.isLt
  have h2 : off.toNat < 2 ^ 16 := off.isLt
  simp only [PA, BitVec.toNat_add, BitVec.toNat_shiftLeft, BitVec.toNat_setWidth, Nat.shiftLeft_eq]
  omega

/-- A word read is the two bytes read, low byte first (R42). -/
theorem memRead16_eq (s : State) (a : Addr20) :
    s.memRead16 a = wordOf (s.memRead8 a) (s.memRead8 (a + 1)) := rfl

theorem memRead8_memWrite16_lo (s : State) (a : Addr20) (v : Word) :
    (s.memWrite16 a v).memRead8 a = loByte v := by
  rw [State.memWrite16, memRead8_memWrite8_of_ne _ _ (succ_ne a).symm, memRead8_memWrite8_self]

theorem memRead8_memWrite16_hi (s : State) (a : Addr20) (v : Word) :
    (s.memWrite16 a v).memRead8 (a + 1) = hiByte v := by
  rw [State.memWrite16, memRead8_memWrite8_self]

theorem memRead8_memWrite16_of_ne (s : State) {a b : Addr20} (v : Word) (h : b ≠ a) (h' : b ≠ a + 1) :
    (s.memWrite16 a v).memRead8 b = s.memRead8 b := by
  rw [State.memWrite16, memRead8_memWrite8_of_ne _ _ h', memRead8_memWrite8_of_ne _ _ h]

/-- A word read depends on the memory only. -/
theorem memRead16_congr {s t : State} (h : s.mem = t.mem) (a : Addr20) : s.memRead16 a = t.memRead16 a := by
  simp only [State.memRead16, State.memRead8, h]

/-- A word written is read back (R42, R44). -/
@[simp] theorem memRead16_memWrite16_self (s : State) (a : Addr20) (v : Word) :
    (s.memWrite16 a v).memRead16 a = v := by
  rw [memRead16_eq, memRead8_memWrite16_lo, memRead8_memWrite16_hi, wordOf_loByte_hiByte]

/-- A word that does not overlap the written one reads as before. -/
theorem memRead16_memWrite16_of_ne (s : State) {a b : Addr20} (v : Word) (h : b ≠ a) (h1 : b ≠ a + 1)
    (h2 : b + 1 ≠ a) : (s.memWrite16 a v).memRead16 b = s.memRead16 b := by
  rw [memRead16_eq, memRead16_eq, memRead8_memWrite16_of_ne s v h h1, memRead8_memWrite16_of_ne s v h2]
  intro e
  exact h (by bv_omega)

/-- Words pushed at different depths of one stack segment do not overlap. -/
theorem memRead16_memWrite16_stack (s : State) (seg off : Word) (i j : Nat) (hi : i < j) (hj : j ≤ 10)
    (v : Word) :
    (s.memWrite16 (PA seg (off - BitVec.ofNat 16 (2 * j))) v).memRead16 (PA seg (off - BitVec.ofNat 16 (2 * i)))
      = s.memRead16 (PA seg (off - BitVec.ofNat 16 (2 * i))) := by
  have key : ∀ n m : Nat, n ≤ 1 → m ≤ 1 →
      PA seg (off - BitVec.ofNat 16 (2 * i)) + BitVec.ofNat 20 n
        ≠ PA seg (off - BitVec.ofNat 16 (2 * j)) + BitVec.ofNat 20 m := by
    intro n m hn hm e
    have := congrArg BitVec.toNat e
    simp only [BitVec.toNat_add, toNat_PA, BitVec.toNat_sub, BitVec.toNat_ofNat] at this
    have h1 := off.isLt
    have h2 := seg.isLt
    omega
  apply memRead16_memWrite16_of_ne
  · simpa using key 0 0 (by simp) (by simp)
  · simpa using key 0 1 (by simp) (by simp)
  · simpa using key 1 0 (by simp) (by simp)

/-- A byte outside a stored row reads as before. -/
theorem memRead8_storeBytes_of_ne (s : State) (a b : Addr20) (l : List Byte)
    (h : ∀ i < l.length, b ≠ a + BitVec.ofNat 20 i) : (s.storeBytes a l).memRead8 b = s.memRead8 b := by
  induction l generalizing s a with
  | nil => rfl
  | cons c l ih =>
    rw [State.storeBytes, ih]
    · exact memRead8_memWrite8_of_ne _ _ (by simpa using h 0 (by simp))
    · intro i hi
      have := h (i + 1) (by simpa using hi)
      rwa [BitVec.ofNat_add, BitVec.add_comm (BitVec.ofNat 20 i), ← BitVec.add_assoc] at this

/-- Storing a row changes memory only. -/
theorem storeBytes_frame (s : State) (a : Addr20) (l : List Byte) :
    s.storeBytes a l = { s with mem := (s.storeBytes a l).mem } := by
  induction l generalizing s a with
  | nil => rfl
  | cons b l ih => rw [State.storeBytes, ih]; rfl

/-- A row no longer than memory is read back byte for byte (R251). -/
theorem memRead8_storeBytes (s : State) (a : Addr20) (l : List Byte) (hl : l.length ≤ 2 ^ 20)
    (i : Nat) (hi : i < l.length) :
    (s.storeBytes a l).memRead8 (a + BitVec.ofNat 20 i) = l[i] := by
  induction l generalizing s a i with
  | nil => simp at hi
  | cons c l ih =>
    simp only [List.length_cons] at hl hi
    cases i with
    | zero =>
      rw [State.storeBytes, memRead8_storeBytes_of_ne]
      · simp
      · intro j hj
        have : j + 1 < 2 ^ 20 := by omega
        bv_omega
    | succ i =>
      have h := ih (s.memWrite8 a c) (a + 1) (by omega) i (by omega)
      rw [State.storeBytes, BitVec.ofNat_add, BitVec.add_comm (BitVec.ofNat 20 i), ← BitVec.add_assoc]
      exact h

/-! ### Register halves (R22) -/

@[simp] theorem loByte_putLo (x : Word) (v : Byte) : loByte (putLo x v) = v := by
  have mask : ∀ i < 8, (0xFF00 : Word).getLsbD i = false := by decide
  apply BitVec.eq_of_getLsbD_eq
  intro i hi
  simp only [loByte, putLo, BitVec.getLsbD_extractLsb', BitVec.getLsbD_or, BitVec.getLsbD_and,
    BitVec.getLsbD_setWidth, Nat.zero_add, mask i hi]
  simp [hi, show i < 16 by omega]

@[simp] theorem hiByte_putLo (x : Word) (v : Byte) : hiByte (putLo x v) = hiByte x := by
  have mask : ∀ i < 8, (0xFF00 : Word).getLsbD (8 + i) = true := by decide
  apply BitVec.eq_of_getLsbD_eq
  intro i hi
  simp only [hiByte, putLo, BitVec.getLsbD_extractLsb', BitVec.getLsbD_or, BitVec.getLsbD_and,
    BitVec.getLsbD_setWidth, mask i hi]
  simp [hi]

@[simp] theorem hiByte_putHi (x : Word) (v : Byte) : hiByte (putHi x v) = v := by
  have mask : ∀ i, (h : i < 8) → (0x00FF#16)[8 + i] = false := by decide
  apply BitVec.eq_of_getLsbD_eq
  intro i hi
  simp only [hiByte, putHi, BitVec.getLsbD_extractLsb', BitVec.getLsbD_or, BitVec.getLsbD_and,
    BitVec.getLsbD_shiftLeft, BitVec.getLsbD_setWidth]
  simp [hi, mask i hi, show i < 16 by omega, show 8 + i < 16 by omega]

@[simp] theorem loByte_putHi (x : Word) (v : Byte) : loByte (putHi x v) = loByte x := by
  have mask : ∀ i, (h : i < 8) → (0x00FF#16)[i] = true := by decide
  apply BitVec.eq_of_getLsbD_eq
  intro i hi
  simp only [loByte, putHi, BitVec.getLsbD_extractLsb', BitVec.getLsbD_or, BitVec.getLsbD_and,
    BitVec.getLsbD_shiftLeft, BitVec.getLsbD_setWidth, Nat.zero_add]
  simp [hi, mask i hi, show i < 16 by omega]

/-- The low byte of a zero-extended byte is the byte. -/
@[simp] theorem loByte_setWidth (v : Byte) : loByte (v.setWidth 16) = v := by
  apply BitVec.eq_of_getLsbD_eq
  intro i hi
  simp only [loByte, BitVec.getLsbD_extractLsb', BitVec.getLsbD_setWidth, Nat.zero_add]
  simp [hi, show i < 16 by omega]

/-! ### Flag bits (R28, R29) -/

theorem flag_bit_lt (f : Flag) : f.bit < 16 := by cases f <;> decide

/-- Writing a flag writes its bit. -/
@[simp] theorem flagGet_flagPut_self (w : Word) (f : Flag) (b : Bool) : flagGet (flagPut w f b) f = b := by
  cases b <;> simp [flagGet, flagPut, Flag.mask, flag_bit_lt]

/-- Writing a flag leaves every other bit. -/
theorem getLsbD_flagPut_of_ne (w : Word) (f : Flag) (b : Bool) {k : Nat} (h : k ≠ f.bit) :
    (flagPut w f b).getLsbD k = w.getLsbD k := by
  cases b
  · by_cases hk : k < 16
    · simp [flagPut, Flag.mask, hk, h]
    · simp [BitVec.getLsbD_of_ge _ _ (Nat.le_of_not_lt hk)]
  · simp [flagPut, Flag.mask, BitVec.getLsbD_twoPow, Ne.symm h]

end Sys2Proof.Laws
end

