-- ==== Sys2Proof/Laws/Stage.lean ====
section
/-! SUPPORT. What the reference execution stage's shared operations do, said once. -/

namespace Sys2Proof.Laws

open Sys2Proof.Machine

/-- The state after an interrupt's three pushes (43_software_interrupts.md R161). -/
def pushedForInterrupt (s : State) : State := ((s.push s.flags).push s.cs).push s.ip

/-- Entering an interrupt: SP lowered by 6 and memory written by the pushes, then IP, CS and FLAGS loaded;
every other field as before. -/
theorem interrupt_eq (s : State) (v : Byte) :
    s.interrupt v =
      { s with
        sp := s.sp - 2 - 2 - 2
        mem := (pushedForInterrupt s).mem
        flags := interruptFlags s.flags
        ip := (pushedForInterrupt s).memRead16 (v.setWidth 20 <<< 2)
        cs := (pushedForInterrupt s).memRead16 (v.setWidth 20 <<< 2 + 2) } := by
  have h : pushedForInterrupt s =
      { s with sp := s.sp - 2 - 2 - 2, mem := (pushedForInterrupt s).mem } := rfl
  have e : s.interrupt v =
      { pushedForInterrupt s with
        flags := interruptFlags s.flags
        ip := (pushedForInterrupt s).memRead16 (v.setWidth 20 <<< 2)
        cs := (pushedForInterrupt s).memRead16 (v.setWidth 20 <<< 2 + 2) } := rfl
  rw [e]
  generalize (pushedForInterrupt s).memRead16 (v.setWidth 20 <<< 2) = x
  generalize (pushedForInterrupt s).memRead16 (v.setWidth 20 <<< 2 + 2) = y
  rw [h]

/-- Returning from an interrupt: three words popped into IP, CS and FLAGS (45_flag_prefix.md R207). -/
theorem interruptReturn_eq (s : State) :
    s.interruptReturn =
      { s with
        sp := s.sp + 2 + 2 + 2
        ip := s.memRead16 (PA s.ss s.sp)
        cs := s.memRead16 (PA s.ss (s.sp + 2))
        flags := s.memRead16 (PA s.ss (s.sp + 2 + 2)) } := rfl

/-- A near or far return: one or two words popped, then the stack adjust (R145-R148). -/
theorem returnFrom_eq (s : State) (far : Bool) (adjust : Option Word) :
    s.returnFrom far adjust =
      { s with
        ip := s.memRead16 (PA s.ss s.sp)
        cs := if far then s.memRead16 (PA s.ss (s.sp + 2)) else s.cs
        sp := s.sp + 2 + (if far then 2 else 0) + adjust.getD 0 } := by
  cases far
  · simp [State.returnFrom, State.pop, State.setIp]
  · rfl

/-- A stage operation that ends an instruction drops the pending prefixes (assumption 14). -/
@[simp] theorem done_ovr (t : StageState) (s : State) : (t.done s).ovr = none := rfl
@[simp] theorem done_lock (t : StageState) (s : State) : (t.done s).lock = false := rfl
@[simp] theorem done_rep (t : StageState) (s : State) : (t.done s).rep = none := rfl
@[simp] theorem done_core (t : StageState) (s : State) : (t.done s).core = s := rfl
@[simp] theorem done_halted (t : StageState) (s : State) : (t.done s).halted = t.halted := rfl
@[simp] theorem done_draws (t : StageState) (s : State) : (t.done s).draws = t.draws := rfl

end Sys2Proof.Laws
end

