-- ==== Sys2Proof/Laws/Step.lean ====
section
/-! SUPPORT. What one transaction can do, said once: the value each instruction emits, and the two ways a
decode request ends. -/

namespace Sys2Proof.Laws

open Sys2Proof.Machine

/-- The instruction value each instruction's meaning emits (the Decode lines of files 41-45). -/
def insnOf : Instr → Insn
  | .movR8Imm8 dst imm => ⟨.movRegImm dst (.i8 imm), 2⟩
  | .movR16Imm16 dst imm => ⟨.movRegImm dst (.i16 imm), 3⟩
  | .movAlMoffs8 addr => ⟨.movAccMem .byte addr, 3⟩
  | .movAxMoffs16 addr => ⟨.movAccMem .word addr, 3⟩
  | .movMoffs8Al addr => ⟨.movMemAcc .byte addr, 3⟩
  | .movMoffs16Ax addr => ⟨.movMemAcc .word addr, 3⟩
  | .movRm8R8 dst src => ⟨.movRmReg .byte dst src, 2 + dst.dlen⟩
  | .movRm16R16 dst src => ⟨.movRmReg .word dst src, 2 + dst.dlen⟩
  | .movR8Rm8 dst src => ⟨.movRegRm .byte dst src, 2 + src.dlen⟩
  | .movR16Rm16 dst src => ⟨.movRegRm .word dst src, 2 + src.dlen⟩
  | .movRm16Sreg dst src => ⟨.movRmSreg dst src, 2 + dst.dlen⟩
  | .movSregRm16 dst src => ⟨.movSregRm dst src, 2 + src.dlen⟩
  | .movRm8Imm8 dst imm => ⟨.movRmImm .byte dst (.i8 imm), 3 + dst.dlen⟩
  | .movRm16Imm16 dst imm => ⟨.movRmImm .word dst (.i16 imm), 4 + dst.dlen⟩
  | .leaR16M dst src => ⟨.lea dst src, 2 + src.dlen⟩
  | .lesR16M32 dst src => ⟨.les dst src, 2 + src.dlen⟩
  | .ldsR16M32 dst src => ⟨.lds dst src, 2 + src.dlen⟩
  | .jo rel => ⟨.jcc .o rel, 2⟩
  | .jno rel => ⟨.jcc .no rel, 2⟩
  | .jb rel => ⟨.jcc .b rel, 2⟩
  | .jae rel => ⟨.jcc .ae rel, 2⟩
  | .je rel => ⟨.jcc .e rel, 2⟩
  | .jne rel => ⟨.jcc .ne rel, 2⟩
  | .jbe rel => ⟨.jcc .be rel, 2⟩
  | .ja rel => ⟨.jcc .a rel, 2⟩
  | .js rel => ⟨.jcc .s rel, 2⟩
  | .jns rel => ⟨.jcc .ns rel, 2⟩
  | .jp rel => ⟨.jcc .p rel, 2⟩
  | .jnp rel => ⟨.jcc .np rel, 2⟩
  | .jl rel => ⟨.jcc .l rel, 2⟩
  | .jge rel => ⟨.jcc .ge rel, 2⟩
  | .jle rel => ⟨.jcc .le rel, 2⟩
  | .jg rel => ⟨.jcc .g rel, 2⟩
  | .loopnz rel => ⟨.loop .nz rel, 2⟩
  | .loopz rel => ⟨.loop .z rel, 2⟩
  | .loop rel => ⟨.loop .always rel, 2⟩
  | .jcxz rel => ⟨.jcxz rel, 2⟩
  | .ret => ⟨.ret false none, 1⟩
  | .retImm16 adjust => ⟨.ret false (some adjust), 3⟩
  | .retf => ⟨.ret true none, 1⟩
  | .retfImm16 adjust => ⟨.ret true (some adjust), 3⟩
  | .int3 => ⟨.int3, 1⟩
  | .intImm8 vector => ⟨.int vector, 2⟩
  | .into => ⟨.into, 1⟩
  | .inAlImm8 port => ⟨.inp .byte (.fixed port), 2⟩
  | .inAxImm8 port => ⟨.inp .word (.fixed port), 2⟩
  | .inAlDx => ⟨.inp .byte .dx, 1⟩
  | .inAxDx => ⟨.inp .word .dx, 1⟩
  | .outImm8Al port => ⟨.outp .byte (.fixed port), 2⟩
  | .outImm8Ax port => ⟨.outp .word (.fixed port), 2⟩
  | .outDxAl => ⟨.outp .byte .dx, 1⟩
  | .outDxAx => ⟨.outp .word .dx, 1⟩
  | .hlt => ⟨.simple .hlt, 1⟩
  | .nop => ⟨.simple .nop, 1⟩
  | .wait => ⟨.simple .wait, 1⟩
  | .lock => ⟨.simple .lock, 1⟩
  | .segEs => ⟨.seg .es, 1⟩
  | .segCs => ⟨.seg .cs, 1⟩
  | .segSs => ⟨.seg .ss, 1⟩
  | .segDs => ⟨.seg .ds, 1⟩
  | .repne => ⟨.rep false, 1⟩
  | .rep => ⟨.rep true, 1⟩
  | .stc => ⟨.simple .stc, 1⟩
  | .clc => ⟨.simple .clc, 1⟩
  | .cmc => ⟨.simple .cmc, 1⟩
  | .std => ⟨.simple .std, 1⟩
  | .cld => ⟨.simple .cld, 1⟩
  | .sti => ⟨.simple .sti, 1⟩
  | .cli => ⟨.simple .cli, 1⟩
  | .cbw => ⟨.simple .cbw, 1⟩
  | .cwd => ⟨.simple .cwd, 1⟩
  | .lahf => ⟨.simple .lahf, 1⟩
  | .sahf => ⟨.simple .sahf, 1⟩
  | .pushf => ⟨.simple .pushf, 1⟩
  | .popf => ⟨.simple .popf, 1⟩
  | .iret => ⟨.simple .iret, 1⟩
  | .xlat => ⟨.simple .xlat, 1⟩
  | .aaa => ⟨.simple .aaa, 1⟩
  | .aas => ⟨.simple .aas, 1⟩
  | .aamImm8 base => ⟨.aam base, 2⟩
  | .aadImm8 base => ⟨.aad base, 2⟩
  | .daa => ⟨.simple .daa, 1⟩
  | .das => ⟨.simple .das, 1⟩

/-- Every meaning is one `emit` of the instruction's value. -/
theorem exec_eq_emit (i : Instr) (s : State) : exec i s = emit (insnOf i).body (insnOf i).len s := by
  cases i <;> rfl

/-- The emitted length is the encoding's length (R103). -/
theorem insnOf_len (i : Instr) : (insnOf i).len = i.len := by
  cases i <;> rfl

/-- A decode request ends in one of two ways (R92). -/
theorem decodeRequest_cases (fa : Addr20) (s : State) :
    (∃ i, decode s.bcdPair fa (s.fetchByte fa) = .ok i ∧
      decodeRequest fa s =
        .next { s with ip := s.ip + BitVec.ofNat 16 i.len, rsp := .ok (insnOf i) }) ∨
    (∃ e, decode s.bcdPair fa (s.fetchByte fa) = .err e ∧
      decodeRequest fa s = .next { s with rsp := .err e }) := by
  cases h : decode s.bcdPair fa (s.fetchByte fa) with
  | ok i =>
    refine .inl ⟨i, rfl, ?_⟩
    rw [decodeRequest, h]
    exact (exec_eq_emit i s).trans (by rw [emit, ← insnOf_len])
  | err e =>
    refine .inr ⟨e, rfl, ?_⟩
    rw [decodeRequest, h]
    rfl

/-- `step` is the request at the fetch address (R91). -/
theorem step_eq (s : State) : step s = decodeRequest s.fetchAddr s := rfl

end Sys2Proof.Laws
end

