-- ==== Sys2Proof/Tests/Slice0.lean ====
section
/-! SUPPORT. Tests of the model. The expected results are the spec's: the bytes and values of
95_test_vectors.md and the encodings of 30_encoding.md, written out by hand. Then the witnesses: for each
statement with hypotheses, a state and operands that meet all of them. -/

open Sys2Proof Sys2Proof.Machine Sys2Proof.Spec

namespace Sys2Proof.Tests

/-! ### Well-formedness refuses ill-formed terms -/

theorem test_wf_refuses_wrong_register_width :
    ∀ i ∈ [Instr.movR8Imm8 .ax 0, .movR16Imm16 .al 0, .movRm8R8 (.regOp .al) .ax, .movRm16R16 (.regOp .ax) .al,
      .movR8Rm8 .ax (.regOp .al), .movR16Rm16 .al (.regOp .ax), .leaR16M .al ⟨0, .noDisp⟩,
      .lesR16M32 .bh ⟨0, .noDisp⟩, .ldsR16M32 .dl ⟨0, .noDisp⟩], i.wf .ascii = false := by decide

theorem test_wf_refuses_wrong_operand_width :
    ∀ i ∈ [Instr.movRm8R8 (.regOp .ax) .al, .movRm16R16 (.regOp .al) .ax, .movR8Rm8 .al (.regOp .si),
      .movR16Rm16 .ax (.regOp .ch), .movRm16Sreg (.regOp .al) .ds, .movSregRm16 .ss (.regOp .bl),
      .movRm8Imm8 (.regOp .sp) 0, .movRm16Imm16 (.regOp .ah) 0], i.wf .ascii = false := by decide

theorem test_wf_refuses_wrong_displacement :
    ∀ i ∈ [Instr.movRm8R8 (.memOp ⟨6, .noDisp⟩) .al, .movRm16R16 (.memOp ⟨7, .d16 0⟩) .ax,
      .movR8Rm8 .al (.memOp ⟨8, .noDisp⟩), .movR16Rm16 .ax (.memOp ⟨15, .d16 0⟩),
      .movRm16Sreg (.memOp ⟨16, .d8 0⟩) .es, .movSregRm16 .ds (.memOp ⟨23, .noDisp⟩),
      .movRm8Imm8 (.memOp ⟨6, .d8 0⟩) 0, .movRm16Imm16 (.memOp ⟨0, .d8 0⟩) 0, .leaR16M .ax ⟨22, .noDisp⟩,
      .lesR16M32 .bx ⟨14, .d16 1⟩, .ldsR16M32 .si ⟨5, .d16 1⟩], i.wf .ascii = false := by decide

theorem test_wf_refuses_other_bcd_pair :
    (∀ i ∈ [Instr.daa, .das], i.wf .ascii = false) ∧ ∀ i ∈ [Instr.aaa, .aas], i.wf .decimal = false := by
  decide

/-! ### Every constructor is decoded from bytes written out from its encoding -/

/-- The instruction that a list of bytes decodes to. -/
def dec (p : BcdPair) (l : List Byte) : DecodeResult := decode p 0x10100 (listByte l)

theorem test_decode_mov_immediate_and_accumulator :
    ∀ r ∈ [([(0xB4 : Byte), 0xFF], Instr.movR8Imm8 .ah 0xFF), ([0xB7, 0x80], .movR8Imm8 .bh 0x80),
      ([0xBC, 0xFE, 0xFF], .movR16Imm16 .sp 0xFFFE), ([0xBF, 0x00, 0x00], .movR16Imm16 .di 0),
      ([0xA0, 0x34, 0x12], .movAlMoffs8 0x1234), ([0xA1, 0xFF, 0xFF], .movAxMoffs16 0xFFFF),
      ([0xA2, 0x00, 0x20], .movMoffs8Al 0x2000), ([0xA3, 0x10, 0x00], .movMoffs16Ax 0x0010)],
      dec .ascii r.1 = .ok r.2 := by decide

theorem test_decode_mov_register_memory :
    ∀ r ∈ [([(0x88 : Byte), 0xC4], Instr.movRm8R8 (.regOp .ah) .al),
      ([0x88, 0x07], .movRm8R8 (.memOp ⟨7, .noDisp⟩) .al), ([0x89, 0xD8], .movRm16R16 (.regOp .ax) .bx),
      ([0x89, 0x0E, 0x00, 0x20], .movRm16R16 (.memOp ⟨6, .d16 0x2000⟩) .cx),
      ([0x89, 0x46, 0xFC], .movRm16R16 (.memOp ⟨14, .d8 0xFC⟩) .ax),
      ([0x8A, 0x07], .movR8Rm8 .al (.memOp ⟨7, .noDisp⟩)), ([0x8B, 0xD8], .movR16Rm16 .bx (.regOp .ax)),
      ([0x8B, 0x47, 0x80], .movR16Rm16 .ax (.memOp ⟨15, .d8 0x80⟩)),
      ([0x8B, 0x87, 0x00, 0x01], .movR16Rm16 .ax (.memOp ⟨23, .d16 0x0100⟩))],
      dec .ascii r.1 = .ok r.2 := by decide

theorem test_decode_mov_segment :
    ∀ r ∈ [([(0x8C : Byte), 0xD8], Instr.movRm16Sreg (.regOp .ax) .ds),
      ([0x8C, 0x06, 0x00, 0x20], .movRm16Sreg (.memOp ⟨6, .d16 0x2000⟩) .es),
      ([0x8E, 0xC8], .movSregRm16 .cs (.regOp .ax)),
      ([0x8E, 0x1E, 0x00, 0x20], .movSregRm16 .ds (.memOp ⟨6, .d16 0x2000⟩))],
      dec .ascii r.1 = .ok r.2 := by decide

theorem test_decode_mov_immediate_to_operand :
    ∀ r ∈ [([(0xC6 : Byte), 0x06, 0x00, 0x20, 0xAA], Instr.movRm8Imm8 (.memOp ⟨6, .d16 0x2000⟩) 0xAA),
      ([0xC6, 0x47, 0x02, 0x7F], .movRm8Imm8 (.memOp ⟨15, .d8 0x02⟩) 0x7F),
      ([0xC7, 0x86, 0x34, 0x12, 0x78, 0x56], .movRm16Imm16 (.memOp ⟨22, .d16 0x1234⟩) 0x5678),
      ([0xC7, 0xC0, 0x34, 0x12], .movRm16Imm16 (.regOp .ax) 0x1234)],
      dec .ascii r.1 = .ok r.2 := by decide

theorem test_decode_pointer_loads :
    ∀ r ∈ [([(0x8D : Byte), 0x76, 0x04], Instr.leaR16M .si ⟨14, .d8 0x04⟩), ([0xC4, 0x1E, 0x00, 0x30], .lesR16M32 .bx ⟨6, .d16 0x3000⟩),
      ([0xC5, 0x36, 0x10, 0x00], .ldsR16M32 .si ⟨6, .d16 0x0010⟩)],
      dec .ascii r.1 = .ok r.2 := by decide

theorem test_decode_conditional_jumps :
    ∀ r ∈ [([(0x70 : Byte), 0], Instr.jo 0), ([0x71, 0], .jno 0), ([0x72, 0], .jb 0), ([0x73, 0], .jae 0),
      ([0x74, 0xFE], .je 0xFE), ([0x75, 0], .jne 0), ([0x76, 0], .jbe 0), ([0x77, 0], .ja 0)],
      dec .ascii r.1 = .ok r.2 := by decide

theorem test_decode_conditional_jumps_2 :
    ∀ r ∈ [([(0x78 : Byte), 0], Instr.js 0), ([0x79, 0], .jns 0), ([0x7A, 0], .jp 0), ([0x7B, 0], .jnp 0),
      ([0x7C, 0x80], .jl 0x80), ([0x7D, 0], .jge 0), ([0x7E, 0], .jle 0), ([0x7F, 0x7F], .jg 0x7F)],
      dec .ascii r.1 = .ok r.2 := by decide

theorem test_decode_loops_and_returns :
    ∀ r ∈ [([(0xE0 : Byte), 0xFE], Instr.loopnz 0xFE), ([0xE1, 0], .loopz 0), ([0xE2, 0xFC], .loop 0xFC),
      ([0xE3, 0x80], .jcxz 0x80), ([0xC3], .ret), ([0xC2, 0x04, 0x00], .retImm16 4), ([0xCB], .retf),
      ([0xCA, 0x02, 0x00], .retfImm16 2)], dec .ascii r.1 = .ok r.2 := by decide

theorem test_decode_interrupts_and_ports :
    ∀ r ∈ [([(0xCC : Byte)], Instr.int3), ([0xCD, 0x21], .intImm8 0x21), ([0xCE], .into),
      ([0xE4, 0x60], .inAlImm8 0x60), ([0xE5, 0x40], .inAxImm8 0x40), ([0xEC], .inAlDx), ([0xED], .inAxDx),
      ([0xE6, 0x43], .outImm8Al 0x43), ([0xE7, 0x00], .outImm8Ax 0), ([0xEE], .outDxAl), ([0xEF], .outDxAx)],
      dec .ascii r.1 = .ok r.2 := by decide

theorem test_decode_no_operand_group :
    ∀ r ∈ [([(0xF4 : Byte)], Instr.hlt), ([0x90], .nop), ([0x9B], .wait), ([0xF0], .lock), ([0x26], .segEs),
      ([0x2E], .segCs), ([0x36], .segSs), ([0x3E], .segDs), ([0xF2], .repne), ([0xF3], .rep), ([0xF9], .stc),
      ([0xF8], .clc), ([0xF5], .cmc), ([0xFD], .std), ([0xFC], .cld), ([0xFB], .sti)],
      dec .ascii r.1 = .ok r.2 := by decide

theorem test_decode_no_operand_group_2 :
    ∀ r ∈ [([(0xFA : Byte)], Instr.cli), ([0x98], .cbw), ([0x99], .cwd), ([0x9F], .lahf), ([0x9E], .sahf),
      ([0x9C], .pushf), ([0x9D], .popf), ([0xCF], .iret), ([0xD7], .xlat), ([0x37], .aaa), ([0x3F], .aas),
      ([0xD4, 0x0A], .aamImm8 0x0A), ([0xD5, 0x00], .aadImm8 0)], dec .ascii r.1 = .ok r.2 := by decide

theorem test_decode_decimal_pair :
    dec .decimal [0x27] = .ok .daa ∧ dec .decimal [0x2F] = .ok .das := by decide

theorem test_encode_writes_displacement_before_immediate :
    encode (.movRm16Imm16 (.memOp ⟨22, .d16 0x1234⟩) 0x5678) = [0xC7, 0x86, 0x34, 0x12, 0x78, 0x56] := by
  decide

/-! ### Decode errors -/

theorem test_decode_error_forms :
    dec .ascii [0x8C, 0xE0] = .err ⟨.unknownSubform, 0x10100, [0x8C, 0xE0]⟩ ∧
    dec .ascii [0x8E, 0x26, 0x00, 0x20] = .err ⟨.unknownSubform, 0x10100, [0x8E, 0x26]⟩ ∧
    dec .ascii [0xC6, 0xC8] = .err ⟨.unknownOpcode, 0x10100, [0xC6, 0xC8]⟩ ∧
    dec .ascii [0xC7, 0x48, 0, 0, 0] = .err ⟨.unknownOpcode, 0x10100, [0xC7, 0x48]⟩ ∧
    dec .ascii [0x8D, 0xC0] = .err ⟨.invalidOperandEncoding, 0x10100, [0x8D, 0xC0]⟩ ∧
    dec .ascii [0xC4, 0xC0] = .err ⟨.invalidOperandEncoding, 0x10100, [0xC4, 0xC0]⟩ ∧
    dec .ascii [0xC5, 0xF6] = .err ⟨.invalidOperandEncoding, 0x10100, [0xC5, 0xF6]⟩ := by decide

theorem test_decode_unknown_bytes :
    (∀ b ∈ [(0x00 : Byte), 0x0F, 0x25, 0x28, 0x2D, 0x40, 0x6F, 0x80, 0x87, 0x8F, 0x91, 0x9A, 0xA4, 0xAF, 0xC0, 0xC8,
      0xD0, 0xD6, 0xD8, 0xE8, 0xEB, 0xF1, 0xF6, 0xFE, 0xFF, 0x27, 0x2F],
      dec .ascii [b] = .err ⟨.unknownOpcode, 0x10100, [b]⟩) ∧
    ∀ b ∈ [(0x37 : Byte), 0x3F], dec .decimal [b] = .err ⟨.unknownOpcode, 0x10100, [b]⟩ := by decide

/-! ### One step from S0 (95_test_vectors.md): the answer and IP -/

/-- S0 with a program. -/
def S0 (program : List Byte) : State := State.reset.load 0x1000 0x0100 program

/-- What stands on the port after a step, and IP. -/
def seen : Answer → Option (Rsp × Word)
  | .next t => some (t.rsp, t.ip)
  | _ => none

theorem test_step_values_of_data_movement :
    ∀ r ∈ [([(0xB0 : Byte), 0x05], Body.movRegImm .al (.i8 0x05), 2),
      ([0xB8, 0x34, 0x12], .movRegImm .ax (.i16 0x1234), 3), ([0x89, 0xD8], .movRmReg .word (.regOp .ax) .bx, 2),
      ([0x8B, 0xD8], .movRegRm .word .bx (.regOp .ax), 2), ([0xA2, 0x00, 0x20], .movMemAcc .byte 0x2000, 3),
      ([0x8E, 0xD0], .movSregRm .ss (.regOp .ax), 2), ([0x8C, 0xD8], .movRmSreg (.regOp .ax) .ds, 2),
      ([0xC6, 0xC0, 0x05], .movRmImm .byte (.regOp .al) (.i8 0x05), 3), ([0x8D, 0x00], .lea .ax ⟨0, .noDisp⟩, 2),
      ([0xC4, 0x1E, 0x00, 0x30], .les .bx ⟨6, .d16 0x3000⟩, 4)],
      seen (step (S0 r.1)) = some (.ok ⟨r.2.1, r.2.2⟩, 0x0100 + BitVec.ofNat 16 r.2.2) := by decide

theorem test_step_values_of_the_other_families :
    ∀ r ∈ [([(0x74 : Byte), 0xFE], Body.jcc .e 0xFE, 2), ([0xE1, 0x00], .loop .z 0, 2), ([0xE3, 0x7F], .jcxz 0x7F, 2),
      ([0xC2, 0x00, 0x00], .ret false (some 0), 3), ([0xCB], .ret true none, 1), ([0xCD, 0x03], .int 3, 2),
      ([0xCC], .int3, 1), ([0xE5, 0x40], .inp .word (.fixed 0x40), 2), ([0xEE], .outp .byte .dx, 1),
      ([0x36], .seg .ss, 1), ([0xF2], .rep false, 1), ([0x9B], .simple .wait, 1), ([0xD4, 0x00], .aam 0, 2),
      ([0xD5, 0x0A], .aad 0x0A, 2), ([0xCF], .simple .iret, 1)],
      seen (step (S0 r.1)) = some (.ok ⟨r.2.1, r.2.2⟩, 0x0100 + BitVec.ofNat 16 r.2.2) := by decide

/-- S6: an error leaves IP. -/
theorem test_step_error_keeps_ip :
    seen (step (S0 [0x0F])) = some (.err ⟨.unknownOpcode, 0x10100, [0x0F]⟩, 0x0100) := by decide

/-- P6 a: byte 2 is read at 0x30000 and IP wraps. -/
theorem test_step_ip_wraps_and_fetch_does_not :
    seen (step { State.reset with cs := 0x2000, ip := 0xFFFE, mem := [(0x2FFFE, 0xB8), (0x2FFFF, 0x34), (0x30000, 0x12)] })
      = some (.ok ⟨.movRegImm .ax (.i16 0x1234), 3⟩, 0x0001) := by decide

/-- P6 b: the fetch address wraps at 1 MiB. -/
theorem test_step_fetch_wraps_at_top_of_memory :
    seen (step { State.reset with cs := 0xFFFF, ip := 0x000F, mem := [(0, 0x34), (1, 0x12), (0xFFFFF, 0xB8)] })
      = some (.ok ⟨.movRegImm .ax (.i16 0x1234), 3⟩, 0x0012) := by decide

/-! ### The opcode table's words, and running one as the first instruction after reset -/

theorem test_table_words :
    decodeTableWord 8 0x90 = some .nop ∧ decodeTableWord 24 0x1234B8 = some (.movR16Imm16 .ax 0x1234) ∧
    decodeTableWord 8 0x27 = some .daa ∧ decodeTableWord 8 0x37 = some .aaa ∧ decodeTableWord 8 0x0F = none ∧
    decodeTableWord 8 0xA1 = some (.movAxMoffs16 0) := by decide

theorem test_word_runs_first_after_reset :
    seen (step (State.reset.withFetchWord 16 0x0AD4)) = some (.ok ⟨.aam 0x0A, 2⟩, 2) ∧
    seen (step (State.reset.withFetchWord 8 0x2F)) = some (.ok ⟨.simple .das, 1⟩, 1) := by decide

/-! ### State and memory (95_test_vectors.md 2.1) -/

theorem test_physical_addresses :
    PA 0x1000 0x0100 = 0x10100 ∧ PA 0x1234 0x5678 = 0x179B8 ∧ PA 0xF000 0xFFFF = 0xFFFFF ∧
    PA 0xFFFF 0xFFFF = 0x0FFEF := by decide

/-- V-M4, V-M1. -/
theorem test_word_memory :
    (State.reset.memWrite16 0xFFFFF 0xA1B2).mem = [(0, 0xA1), (0xFFFFF, 0xB2)] ∧
    ({ State.reset with mem := [(0x10200, 0x34), (0x10201, 0x12)] } : State).memRead16 0x10200 = 0x1234 := by
  decide

/-- V-ST1, V-ST2, V-ST3. -/
theorem test_stack :
    ((S0 []).push 0xBEEF).mem = [(0x1FFFC, 0xEF), (0x1FFFD, 0xBE)] ∧ ((S0 []).push 0xBEEF).sp = 0xFFFC ∧
    ((S0 []).push 0xBEEF).pop.1 = 0xBEEF ∧ ({ S0 [] with sp := 0 } : State).push 0x0102 =
      { S0 [] with sp := 0xFFFE, mem := [(0x1FFFE, 0x02), (0x1FFFF, 0x01)] } := by decide

/-- T2, V-R1, V-R3. -/
theorem test_register_halves :
    (({ State.reset with ax := 0xABCD } : State).setReg .al 0x12).ax = 0xAB12 ∧
    (({ State.reset with ax := 0xABCD } : State).setReg .ah 0x12).ax = 0x12CD ∧
    (({ State.reset with dx := 0xFFFF } : State).setReg .dl 0x00).dx = 0xFF00 := by decide

/-- 2.2: V-MR3, V-MR4, V-MR5, V-MR8, V-MR10. -/
theorem test_modRM :
    modRM 0x06 = ⟨0, .disp16, .memForm 6⟩ ∧ modRM 0x3E = ⟨7, .disp16, .memForm 6⟩ ∧
    modRM 0x46 = ⟨0, .disp8, .memForm 14⟩ ∧ modRM 0x97 = ⟨2, .disp16, .memForm 23⟩ ∧
    modRM 0xC6 = ⟨0, .none, .regRef 6⟩ ∧ regOf .byte 6 = .dh ∧ regOf .word 6 = .si := by decide

/-! ### The reference execution stage (the reference values of 2.3, 2.4 and P2) -/

theorem test_stage_effective_addresses :
    ({ State.reset with bx := 0x0010 } : State).ea ⟨15, .d8 0x80⟩ = 0xFF90 ∧
    (StageState.start (S0 [])).memAddr ⟨15, .d8 0xFE⟩ = 0x1FFFE ∧
    (StageState.start (S0 [])).memAddr ⟨22, .d16 0x1234⟩ = 0x11234 := by decide

theorem test_stage_branch_targets :
    branchTarget 0x0102 0xFE = 0x0100 ∧ branchTarget 0x0002 0x80 = 0xFF82 ∧ branchTarget 0xFFF2 0x7F = 0x0071 := by
  decide

/-- P2 step 1: the store lands at 0x11234. -/
theorem test_stage_stores_immediate :
    ((StageState.start (S0 [])).execute ⟨.movRmImm .word (.memOp ⟨22, .d16 0x1234⟩) (.i16 0x5678), 6⟩).core.mem =
      [(0x11234, 0x78), (0x11235, 0x56)] := by decide

/-! ### Witnesses: states and operands that meet a statement's hypotheses -/

/-- For ByteWriteChangesOneByte, WordAccessIsTwoBytesLittleEndian, PushWritesWordBelowStackPointer and
StageMovStoresAtOperandAddressOnly: an address outside the stored bytes, at the wrap. -/
theorem witness_byte_outside_stored_bytes :
    (0x00001 : Addr20) ≠ 0xFFFFF ∧ (0x00001 : Addr20) ≠ 0xFFFFF + 1 := by decide

/-- For HalfRegisterWriteKeepsOtherHalf and FullRegisterWriteReplacesAllBits: each row of the list, and a register
outside it. -/
theorem witness_register_rows :
    (Register.al, Register.ah, Register.ax) ∈ [(Register.al, Register.ah, Register.ax), (.cl, .ch, .cx),
      (.dl, .dh, .dx), (.bl, .bh, .bx)] ∧
    (Register.bl, Register.bh, Register.bx) ∈ [(Register.al, Register.ah, Register.ax), (.cl, .ch, .cx),
      (.dl, .dh, .dx), (.bl, .bh, .bx)] ∧
    Register.si ≠ .al ∧ Register.si ≠ .ah ∧ Register.si ≠ .ax ∧ Register.sp.width = .word := by decide

/-- For RegisterNumbersNameRegistersInOrder: the boundary values of the reg field without a segment register. -/
theorem witness_reg_field_without_segment : 4 ≤ (4 : BitVec 3).toNat ∧ 4 ≤ (7 : BitVec 3).toNat := by decide

/-- For FlagsAreOpaqueAndUnusedByDecode, SuccessAdvancesIpByReportedLength, LengthFollowsTheLengthTable,
IpPointsAtTheNextInstruction (0x0100 + 1 does not pass 0xFFFF), DecodeDependsOnlyOnConsumedBytes, EveryInstructionLeavesAllButIpUnchanged and StepKeepsInvariant: a request that
succeeds, from a state with the invariant. -/
theorem witness_successful_step :
    (S0 [0x90]).Inv ∧ ∃ t, step (S0 [0x90]) = .next t ∧ exec .nop (S0 [0x90]) = .next t ∧
      t.rsp = .ok ⟨.simple .nop, 1⟩ := by
  exact ⟨⟨rfl, rfl⟩, _, rfl, rfl, rfl⟩

/-- For DecodeErrorChangesNoState, DecodeDependsOnlyOnConsumedBytes (its error clause) and
StageStepIsDecodeThenExecute (its error clause): a request that fails. -/
theorem witness_failing_step :
    ∃ t, decodeRequest 0x10100 (S0 [0x0F]) = .next t ∧ t.rsp = .err ⟨.unknownOpcode, 0x10100, [0x0F]⟩ :=
  ⟨_, rfl, rfl⟩

/-- For FlagsAreOpaqueAndUnusedByDecode: a bit that is not the flag's. -/
theorem witness_other_flag_bit : 15 ≠ Flag.cf.bit ∧ 1 ≠ Flag.ovf.bit := by decide

/-- For UnknownFirstByteRaisesUnknownOpcode: the boundary bytes of ranges, and the BCD pair's bytes. -/
theorem witness_unknown_first_byte :
    unknownByte (S0 [0x00]).bcdPair ((S0 [0x00]).fetchByte 0x10100 0) = true ∧
    unknownByte (S0 [0xFF]).bcdPair ((S0 [0xFF]).fetchByte 0x10100 0) = true ∧
    unknownByte .ascii 0x27 = true ∧ unknownByte .decimal 0x27 = false ∧ unknownByte .decimal 0x3F = true := by
  decide

/-- For ModRMDecodesAsPseudocode: a byte in each case. -/
theorem witness_modRM_cases :
    (0xFF : Byte).toNat / 64 = 3 ∧ ((0x06 : Byte).toNat / 64 = 0 ∧ (0x06 : Byte).toNat % 8 = 6) ∧
    ((0x3F : Byte).toNat / 64 = 0 ∧ (0x3F : Byte).toNat % 8 ≠ 6) ∧ (0x40 : Byte).toNat / 64 = 1 ∧
    (0xBF : Byte).toNat / 64 = 2 := by decide

/-- For OperandReaderFollowsModRM: bytes for each clause. -/
theorem witness_operand_reader :
    (modRM (listByte [0, 0xD8] 1)).addr = .regRef 0 ∧
    ((modRM (listByte [0, 0x07] 1)).addr = .memForm 7 ∧ (modRM (listByte [0, 0x07] 1)).dispClass = .none) ∧
    ((modRM (listByte [0, 0x46] 1)).addr = .memForm 14 ∧ (modRM (listByte [0, 0x46] 1)).dispClass = .disp8) ∧
    ((modRM (listByte [0, 0x06] 1)).addr = .memForm 6 ∧ (modRM (listByte [0, 0x06] 1)).dispClass = .disp16) := by
  decide

/-- For DecodedMemoryOperandsHaveFittingDisplacement: a value with a memory operand, for each clause of R101. -/
theorem witness_memory_operands :
    ∀ r ∈ [([(0x8A : Byte), 0x07], Mem.mk 7 .noDisp), ([0x8A, 0x06, 0x00, 0x20], ⟨6, .d16 0x2000⟩),
      ([0x8A, 0x47, 0xFE], ⟨15, .d8 0xFE⟩), ([0x8A, 0x87, 0x00, 0x01], ⟨23, .d16 0x0100⟩)],
      ∃ v, (seen (step (S0 r.1))).map Prod.fst = some (.ok v) ∧ r.2 ∈ memsOf v.body := by
  intro r hr
  simp only [List.mem_cons, List.not_mem_nil, or_false] at hr
  rcases hr with rfl | rfl | rfl | rfl
  · exact ⟨⟨.movRegRm .byte .al (.memOp ⟨7, .noDisp⟩), 2⟩, by decide⟩
  · exact ⟨⟨.movRegRm .byte .al (.memOp ⟨6, .d16 0x2000⟩), 4⟩, by decide⟩
  · exact ⟨⟨.movRegRm .byte .al (.memOp ⟨15, .d8 0xFE⟩), 3⟩, by decide⟩
  · exact ⟨⟨.movRegRm .byte .al (.memOp ⟨23, .d16 0x0100⟩), 4⟩, by decide⟩

/-- For DecodeDependsOnlyOnConsumedBytes: another state with the same consumed bytes (and other ones after them). -/
theorem witness_same_consumed_bytes :
    ∀ k < 1, (S0 [0x90, 0x01]).fetchByte 0x10100 k = (S0 [0x90]).fetchByte 0x10100 k := by decide

/-- For DecodeKeepsNoStateBetweenRequests: two different states that agree on what a decode reads. -/
theorem witness_states_that_agree :
    let s := S0 [0x90]
    let s' := { S0 [0x90] with ax := 7, flags := 0xFFFF, rsp := .ok ⟨.int3, 1⟩ }
    s' ≠ s ∧ s'.cs = s.cs ∧ s'.ip = s.ip ∧ s'.mem = s.mem ∧ s'.bcdPair = s.bcdPair := by decide

/-- For DecodeOfEncodeIsIdentity, StoredInstructionIsTheNextExecuted and FirstDecodeAfterDefaultLoadRunsImageHead:
well-formed instructions, the longest and one of each `BCD_PAIR`; bytes that continue after the instruction. -/
theorem witness_well_formed_instruction :
    (Instr.movRm16Imm16 (.memOp ⟨22, .d16 0x1234⟩) 0x5678).wf .ascii = true ∧ Instr.daa.wf .decimal = true ∧
    Instr.aas.wf (S0 []).bcdPair = true ∧
    (∀ k < Instr.nop.len, listByte [0x90, 0xFF] k = listByte (encode .nop) k) ∧
    (encode .nop ++ [(0xFF : Byte)]).length ≤ 2 ^ 20 := by decide

/-- For EncodeOfDecodeIsConsumedBytes and StepRunsTheDecodedInstruction: bytes that decode, and bytes that do not. -/
theorem witness_decoding_bytes :
    (∃ i, decode .ascii 0 (listByte [0x74, 0xFE]) = .ok i) ∧
    decode (S0 [0x90]).bcdPair (PA (S0 [0x90]).cs (S0 [0x90]).ip) ((S0 [0x90]).fetchByte (PA (S0 [0x90]).cs (S0 [0x90]).ip))
      = .ok .nop ∧
    decode (S0 [0x0F]).bcdPair (PA (S0 [0x0F]).cs (S0 [0x0F]).ip) ((S0 [0x0F]).fetchByte (PA (S0 [0x0F]).cs (S0 [0x0F]).ip))
      = .err ⟨.unknownOpcode, 0x10100, [0x0F]⟩ :=
  ⟨⟨.je 0xFE, rfl⟩, rfl, rfl⟩

/-- For EqualValuesComeFromEqualBytes: two requests at different addresses with the same value. -/
theorem witness_equal_values :
    ∃ t t', decodeRequest 0x10100 (S0 [0x90, 0x90]) = .next t ∧ decodeRequest 0x10101 (S0 [0x90, 0x90]) = .next t' ∧
      t.rsp = .ok ⟨.simple .nop, 1⟩ ∧ t'.rsp = .ok ⟨.simple .nop, 1⟩ := ⟨_, _, rfl, rfl, rfl, rfl⟩

/-- For the statements from bytes to the answer, and EveryRequestIsAnswered: for every opcode, a program whose first
byte it is. -/
theorem witness_opcodes (op : Byte) : opcodeIs (S0 [op]) op :=
  Laws.memRead8_storeBytes State.reset (PA 0x1000 0x0100) [op] (by simp) 0 (by simp)

/-- For MovSegmentRegisterDecodesFromBytes, MovImmediateToOperandDecodesFromBytes and PointerLoadsDecodeFromBytes:
each case of the ModR/M byte, at the boundary values of the reg field. -/
theorem witness_modRM_subforms :
    SReg.ofNum (readRM .word (fetched (S0 [0x8C, 0xD8]))).1 = some .ds ∧
    SReg.ofNum (readRM .word (fetched (S0 [0x8E, 0xE0]))).1 = none ∧
    (readRM .byte (fetched (S0 [0xC6, 0xC0, 0x05]))).1 = 0 ∧ (readRM .byte (fetched (S0 [0xC6, 0xC8]))).1 ≠ 0 ∧
    (readRM .word (fetched (S0 [0x8D, 0x00]))).2 = .memOp ⟨0, .noDisp⟩ ∧
    (readRM .word (fetched (S0 [0x8D, 0xC0]))).2 = .regOp .ax := by decide

/-- For NoOperandInstructionsDecodeFromBytes: both values of `BCD_PAIR`. -/
theorem witness_bcd_pairs :
    (S0 []).bcdPair = .ascii ∧ ({ S0 [0x27] with bcdPair := .decimal } : State).bcdPair = .decimal ∧
    opcodeIs { S0 [0x27] with bcdPair := .decimal } 0x27 := ⟨rfl, rfl, rfl⟩

/-- For PrefixesAreInstructionsOfTheirOwn: a prefix with a decodable instruction after it (V-F11). -/
theorem witness_prefixed_program :
    opcodeIs (S0 [0x2E, 0x8B, 0x07]) 0x2E ∧
    decode (S0 [0x2E, 0x8B, 0x07]).bcdPair (PA 0x1000 (0x0100 + 1)) ((S0 [0x2E, 0x8B, 0x07]).fetchByte (PA 0x1000 (0x0100 + 1)))
      = .ok (.movR16Rm16 .ax (.memOp ⟨7, .noDisp⟩)) := ⟨rfl, rfl⟩

/-- For EachAgentWritesOnlyItsOwnState and AnyInterleavingOfAgentsKeepsInvariant: one action of each agent. -/
theorem witness_actions :
    ∀ x ∈ [Action.decodeAt 0x10100, .decodeNext, .load 0x2000 0 [0xCC], .push 1, .pop, .writeReg .al 1,
      .writeSReg .cs 1, .writeIp 1, .writeFlags 1, .writeFlag .zf true, .writeMem8 0 1, .writeMem16 0xFFFFF 1],
      (seen (act x (S0 [0x90]))).isSome = true := by decide

/-- For LoaderPlacesImageAndSetsEntry: an image that wraps, and an address outside it. -/
theorem witness_image :
    [(0x01 : Byte), 0x02].length ≤ 2 ^ 20 ∧ PA 0xFFFF 0x000F = 0xFFFFF ∧
    ∀ i < [(0x01 : Byte), 0x02].length, (0x00001 : Addr20) ≠ PA 0xFFFF 0x000F + BitVec.ofNat 20 i := by decide

/-- For AnyInterleavingOfAgentsKeepsInvariant: a run of three actions ends in a state. -/
theorem witness_run :
    State.reset.Inv ∧ ∃ t, runActions [.load 0x1000 0x0100 [0x90], .push 0xBEEF, .decodeNext] State.reset = .next t :=
  ⟨⟨rfl, rfl⟩, _, rfl⟩

/-- For StageInterruptReturnUndoesInterrupt: the bytes right below and right above the pushed words. -/
theorem witness_bytes_around_pushed_words :
    ∀ a ∈ [(0x1FFF7 : Addr20), 0x1FFFE], ∀ off ∈ [(S0 []).sp - 2, (S0 []).sp - 4, (S0 []).sp - 6],
      a ≠ PA (S0 []).ss off ∧ a ≠ PA (S0 []).ss off + 1 := by
  intro a ha off ho
  simp only [List.mem_cons, List.not_mem_nil, or_false] at ha ho
  rcases ha with rfl | rfl <;> rcases ho with rfl | rfl | rfl <;> decide

/-- For StageStepIsDecodeThenExecute: a stage that is not halted, with a request that succeeds. -/
theorem witness_stage :
    (StageState.start (S0 [0xF9])).halted = false ∧
    ∃ s, step (StageState.start (S0 [0xF9])).core = .next s ∧ s.rsp = .ok ⟨.simple .stc, 1⟩ := ⟨rfl, _, rfl, rfl⟩

end Sys2Proof.Tests
end

/-! Proofs of the statements about the machine's state (10_state.md): one equation for a decode transaction, the
legality of every decode's answer, the invariant along every run, the register file, and each agent's frame. -/

namespace Sys2Proof.Proofs

open Sys2Proof.Machine Sys2Proof.Laws Sys2Proof.Spec

/-! ### One decode transaction as one equation (R91-R94, R224) -/

/-- The state after a transaction whose decode answered `r`: IP advanced and `Ok(I)` on the port, or
`Err(E)` on the port alone. -/
def answered (r : DecodeResult) (s : State) : State :=
  match r with
  | .ok i => { s with ip := s.ip + BitVec.ofNat 16 i.len, rsp := .ok (insnOf i) }
  | .err e => { s with rsp := .err e }

theorem decodeRequest_eq_answered (fa : Addr20) (s : State) :
    decodeRequest fa s = .next (answered (decode s.bcdPair fa (s.fetchByte fa)) s) := by
  obtain ⟨i, hdec, hreq⟩ | ⟨e, hdec, hreq⟩ := decodeRequest_cases fa s
  · rw [hreq, hdec, answered]
  · rw [hreq, hdec, answered]

theorem step_eq_answered (s : State) :
    step s = .next (answered (decode s.bcdPair s.fetchAddr (s.fetchByte s.fetchAddr)) s) :=
  decodeRequest_eq_answered s.fetchAddr s

/-- A transaction changes IP and the answer port only (R32). -/
theorem answered_sameButIpAndRsp (r : DecodeResult) (s : State) : SameButIpAndRsp s (answered r s) := by
  cases r <;> rfl

theorem answered_setFlags (r : DecodeResult) (s : State) (v : Word) :
    answered r (s.setFlags v) = (answered r s).setFlags v := by
  cases r <;> rfl

theorem answered_rsp_congr (r : DecodeResult) (s s' : State) : (answered r s').rsp = (answered r s).rsp := by
  cases r <;> rfl

theorem answered_ip_congr (r : DecodeResult) {s s' : State} (hip : s'.ip = s.ip) :
    (answered r s').ip = (answered r s).ip := by
  cases r with
  | ok i => exact congrArg (· + BitVec.ofNat 16 i.len) hip
  | err e => exact hip

/-- A transaction that puts an error on the port leaves IP (R224). -/
theorem answered_ip_of_err {r : DecodeResult} {s : State} {e : DecodeError}
    (h : (answered r s).rsp = .err e) : (answered r s).ip = s.ip := by
  cases r with
  | ok i => cases h
  | err e' => rfl

/-- The instruction bytes depend on the memory only (R93). -/
theorem fetchByte_congr {s s' : State} (hmem : s'.mem = s.mem) : s'.fetchByte = s.fetchByte :=
  funext fun fa => funext fun k => memRead8_congr hmem (fa + BitVec.ofNat 20 k)

/-! ### Every decode answers a well-formed instruction or one of the stated errors (R101-R103, R220-R223) -/

/-- What a decode answers is legal: a well-formed instruction, or an error of R221-R223. -/
def resultWf (p : BcdPair) : DecodeResult → Bool
  | .ok i => i.wf p
  | .err e => errorWf p e

/-- The emitted value has legal operands exactly where the instruction has. -/
theorem bodyWf_insnOf (p : BcdPair) (i : Instr) : bodyWf p (insnOf i).body = i.wf p := by
  cases i
  case movRm8Imm8 dst imm => simp [insnOf, bodyWf, immWidth, Instr.wf]
  case movRm16Imm16 dst imm => simp [insnOf, bodyWf, immWidth, Instr.wf]
  all_goals rfl

/-- The emitted length is the value's own length (R103). -/
theorem insnOf_len_eq_bodyLen (i : Instr) : (insnOf i).len = bodyLen (insnOf i).body := by
  cases i
  case movRm8Imm8 dst imm => simp only [insnOf, bodyLen, immLen]; omega
  case movRm16Imm16 dst imm => simp only [insnOf, bodyLen, immLen]; omega
  all_goals rfl

/-- The value a well-formed instruction emits is legal and carries its exact length. -/
theorem insnWf_insnOf {p : BcdPair} {i : Instr} (h : i.wf p = true) : insnWf p (insnOf i) = true := by
  rw [insnWf, bodyWf_insnOf, h, decide_eq_true (insnOf_len_eq_bodyLen i)]
  rfl

/-- The first eight registers of the enumeration are the halves (R20, R21). -/
theorem width_ofIndex_of_lt {i : Fin 16} (h : i.val < 8) : (Register.ofIndex i).width = .byte := by
  revert i; decide

/-- The last eight registers of the enumeration are the words (R20, R21). -/
theorem width_ofIndex_of_ge {i : Fin 16} (h : 8 ≤ i.val) : (Register.ofIndex i).width = .word := by
  revert i; decide

theorem unknownOpcode_wf {p : BcdPair} {fa : Addr20} {B : Nat → Byte}
    (h : dispatchMap p (B 0) = none) : resultWf p (unknownOpcode fa B) = true := by
  simp [unknownOpcode, resultWf, errorWf, h]

/-- The first bytes of MOV reg, imm are B0 to BF (R69, R120). -/
theorem dispatch_movRI_range {p : BcdPair} {op : Byte} (h : dispatchMap p op = some .movRI) :
    0xB0 ≤ op.toNat ∧ op.toNat ≤ 0xBF := by
  obtain ⟨r, rfl | rfl⟩ := dispatch_movRI h <;> clear h <;> revert r <;> decide

theorem decodeMovRI_wf {p : BcdPair} {B : Nat → Byte} (h : dispatchMap p (B 0) = some .movRI) :
    resultWf p (decodeMovRI B) = true := by
  have hrange := dispatch_movRI_range h
  by_cases hop : (B 0).toNat ≤ 0xB7
  · simp only [decodeMovRI, hop, if_true, resultWf, Instr.wf]
    exact decide_eq_true (width_ofIndex_of_lt (by rw [Fin.val_ofNat]; omega))
  · simp only [decodeMovRI, hop, if_false, resultWf, Instr.wf]
    exact decide_eq_true (width_ofIndex_of_ge (by rw [Fin.val_ofNat]; omega))

theorem decodeMovAcc_wf {p : BcdPair} {fa : Addr20} {B : Nat → Byte}
    (h : dispatchMap p (B 0) = some .movAcc) : resultWf p (decodeMovAcc fa B) = true := by
  rcases dispatch_movAcc h with hop | hop | hop | hop <;> simp [decodeMovAcc, hop, resultWf, Instr.wf]

theorem decodeMovRM_wf (p : BcdPair) (B : Nat → Byte) : resultWf p (decodeMovRM B) = true := by
  unfold decodeMovRM
  cases opWidth (B 0) <;> cases (B 0).getLsbD 1 <;>
    simp [resultWf, Instr.wf, readRM_wf, width_regOf]

theorem decodeMovSreg_wf {p : BcdPair} {fa : Addr20} {B : Nat → Byte}
    (h : dispatchMap p (B 0) = some .movSreg) : resultWf p (decodeMovSreg fa B) = true := by
  cases hs : SReg.ofNum (regField (B 1)) with
  | none =>
    rcases dispatch_movSreg h with hop | hop <;>
      simp [decodeMovSreg, hs, hop, modRMError, resultWf, errorWf]
  | some sr =>
    simp only [decodeMovSreg, readRM_fst, hs]
    cases (B 0).getLsbD 1 <;> exact readRM_wf .word B

theorem decodeMovRMI_wf {p : BcdPair} {fa : Addr20} {B : Nat → Byte}
    (h : dispatchMap p (B 0) = some .movRMI) : resultWf p (decodeMovRMI fa B) = true := by
  by_cases hreg : regField (B 1) = 0#3
  · cases hw : opWidth (B 0) <;> simp [decodeMovRMI, hreg, hw, resultWf, Instr.wf, readRM_wf]
  · rcases dispatch_movRMI h with hop | hop <;>
      simp [decodeMovRMI, hreg, hop, modRMError, resultWf, errorWf]

/-- The reader returns a register only for mod = 11 (R98, R100). -/
theorem modField_of_readRM_regOp {w : Width} {B : Nat → Byte} {r : Register}
    (h : (readRM w B).2 = .regOp r) : modField (B 1) = 0b11 := by
  cases ha : (modRM (B 1)).addr with
  | regRef n => revert ha; generalize B 1 = m; revert m n; decide
  | memForm f => cases hd : (modRM (B 1)).dispClass <;> simp [readRM, ha, hd] at h

theorem decodePtr_wf {p : BcdPair} {fa : Addr20} {B : Nat → Byte}
    (h : dispatchMap p (B 0) = some .ptr) : resultWf p (decodePtr fa B) = true := by
  have hwf := readRM_wf .word B
  cases hrm : (readRM .word B).2 with
  | regOp r =>
    have hmod := modField_of_readRM_regOp hrm
    rcases dispatch_ptr h with hop | hop | hop <;>
      simp [decodePtr, hrm, hop, hmod, modRMError, resultWf, errorWf]
  | memOp m =>
    have hm : m.wf = true := by rw [hrm] at hwf; exact hwf
    rcases dispatch_ptr h with hop | hop | hop <;>
      simp [decodePtr, hrm, hop, hm, resultWf, Instr.wf, width_regOf]

theorem decodeJcc_wf (p : BcdPair) (B : Nat → Byte) : resultWf p (decodeJcc B) = true := by
  unfold decodeJcc
  cases Cond.ofIndex ((B 0).toNat - 0x70) <;> rfl

theorem decodeLoop_wf {p : BcdPair} {fa : Addr20} {B : Nat → Byte}
    (h : dispatchMap p (B 0) = some .loop) : resultWf p (decodeLoop fa B) = true := by
  rcases dispatch_loop h with hop | hop | hop | hop <;> simp [decodeLoop, hop, resultWf, Instr.wf]

theorem decodeRet_wf {p : BcdPair} {fa : Addr20} {B : Nat → Byte}
    (h : dispatchMap p (B 0) = some .ret) : resultWf p (decodeRet fa B) = true := by
  rcases dispatch_ret h with hop | hop | hop | hop <;> simp [decodeRet, hop, resultWf, Instr.wf]

theorem decodeInt_wf {p : BcdPair} {fa : Addr20} {B : Nat → Byte}
    (h : dispatchMap p (B 0) = some .int) : resultWf p (decodeInt fa B) = true := by
  rcases dispatch_int h with hop | hop | hop <;> simp [decodeInt, hop, resultWf, Instr.wf]

theorem decodeIo_wf {p : BcdPair} {fa : Addr20} {B : Nat → Byte}
    (h : dispatchMap p (B 0) = some .io) : resultWf p (decodeIo fa B) = true := by
  rcases dispatch_io h with hop | hop | hop | hop | hop | hop | hop | hop <;>
    simp [decodeIo, hop, resultWf, Instr.wf]

theorem decodeNoOp_wf {p : BcdPair} {fa : Addr20} {B : Nat → Byte}
    (h : dispatchMap p (B 0) = some .noop) : resultWf p (decodeNoOp p fa B) = true := by
  cases hone : oneByteNoOp p (B 0) with
  | some i => simp only [decodeNoOp, hone, resultWf]; exact (oneByteNoOp_spec hone).2.2
  | none =>
    rcases dispatch_noop h with hsome | hop | hop
    · simp [hone] at hsome
    · simp only [decodeNoOp, hone]; simp [hop, resultWf, Instr.wf]
    · simp only [decodeNoOp, hone]; simp [hop, resultWf, Instr.wf]

/-- The answer of every decode is legal. -/
theorem decode_wf (p : BcdPair) (fa : Addr20) (B : Nat → Byte) : resultWf p (decode p fa B) = true := by
  cases h : dispatchMap p (B 0) with
  | none => simp only [decode, h]; exact unknownOpcode_wf h
  | some fam =>
    simp only [decode, h]
    cases fam with
    | movRI => exact decodeMovRI_wf h
    | movAcc => exact decodeMovAcc_wf h
    | movRM => exact decodeMovRM_wf p B
    | movSreg => exact decodeMovSreg_wf h
    | movRMI => exact decodeMovRMI_wf h
    | ptr => exact decodePtr_wf h
    | jcc => exact decodeJcc_wf p B
    | loop => exact decodeLoop_wf h
    | ret => exact decodeRet_wf h
    | int => exact decodeInt_wf h
    | io => exact decodeIo_wf h
    | noop => exact decodeNoOp_wf h

/-! ### The invariant: kept by every action, so by every run -/

/-- A legal decode answer is a legal answer on the port. -/
theorem rspWf_answered {p : BcdPair} {r : DecodeResult} (s : State) (h : resultWf p r = true) :
    rspWf p (answered r s).rsp = true := by
  cases r with
  | ok i => exact insnWf_insnOf h
  | err e => exact h

/-- A decode request at any address keeps the invariant. -/
theorem decodeRequest_keeps_inv {fa : Addr20} {s t : State} (hs : s.Inv) (h : decodeRequest fa s = .next t) :
    t.Inv := by
  rw [decodeRequest_eq_answered] at h
  obtain rfl := Host.Outcome.next.inj h
  have hsame := answered_sameButIpAndRsp (decode s.bcdPair fa (s.fetchByte fa)) s
  refine ⟨?_, ?_⟩
  · rw [hsame]; exact hs.1
  · rw [hsame]; exact rspWf_answered s (decode_wf s.bcdPair fa (s.fetchByte fa))

/-- A change that keeps memory canonical and leaves `BCD_PAIR` and the port keeps the invariant. -/
theorem inv_of_same_port {s t : State} (hs : s.Inv) (hmem : t.mem.wf = true)
    (hpair : t.bcdPair = s.bcdPair) (hrsp : t.rsp = s.rsp) : t.Inv :=
  ⟨hmem, by rw [hpair, hrsp]; exact hs.2⟩

/-- Every action of every agent keeps the invariant (R32). -/
theorem act_keeps_inv {x : Action} {s t : State} (hs : s.Inv) (h : act x s = .next t) : t.Inv := by
  have hmem := hs.1
  cases x with
  | decodeAt fa => exact decodeRequest_keeps_inv hs h
  | decodeNext => exact decodeRequest_keeps_inv hs h
  | load seg off image => cases h; exact inv_of_same_port hs (load_wf s seg off image hmem) (by simp) (by simp)
  | push v => cases h; exact inv_of_same_port hs (push_wf s v hmem) rfl rfl
  | pop => cases h; exact inv_of_same_port hs hmem rfl rfl
  | writeReg r v => cases h; exact inv_of_same_port hs (by simpa) (by simp) (by simp)
  | writeSReg r v => cases h; exact inv_of_same_port hs (by simpa) (by simp) (by simp)
  | writeIp v => cases h; exact inv_of_same_port hs hmem rfl rfl
  | writeFlags v => cases h; exact inv_of_same_port hs hmem rfl rfl
  | writeFlag f b => cases h; exact inv_of_same_port hs hmem rfl rfl
  | writeMem8 a v => cases h; exact inv_of_same_port hs (memWrite8_wf s a v hmem) rfl rfl
  | writeMem16 a v => cases h; exact inv_of_same_port hs (memWrite16_wf s a v hmem) rfl rfl

/-- A run that ends in a state is an action that answers a state, followed by the rest of the run. -/
theorem runActions_cons_eq_next {x : Action} {xs : List Action} {s t : State}
    (h : runActions (x :: xs) s = .next t) : ∃ u, act x s = .next u ∧ runActions xs u = .next t := by
  rw [runActions] at h
  cases hx : act x s with
  | next u => exact ⟨u, rfl, by rwa [hx] at h⟩
  | fault r => rw [hx] at h; cases h
  | refused r => rw [hx] at h; cases h

/-- Settles O51: by induction on the run, each action keeping the invariant. -/
theorem anyInterleavingOfAgentsKeepsInvariant : Obligations.AnyInterleavingOfAgentsKeepsInvariant := by
  intro xs
  induction xs with
  | nil =>
    intro s t hs h
    obtain rfl := Host.Outcome.next.inj h
    exact hs
  | cons x xs ih =>
    intro s t hs h
    obtain ⟨u, hx, hxs⟩ := runActions_cons_eq_next h
    exact ih u t (act_keeps_inv hs hx) hxs

/-- Settles O49: no byte is written and no answer stands on the port. -/
theorem constructionMeetsInvariant : Obligations.ConstructionMeetsInvariant := ⟨reset_mem_wf, rfl⟩

/-! ### What a decode reads and leaves -/

/-- Settles O34: every meaning is one `emit`, and `emit` writes IP and the port only. -/
theorem everyInstructionLeavesAllButIpUnchanged : Obligations.EveryInstructionLeavesAllButIpUnchanged := by
  intro i s t h
  rw [exec_eq_emit] at h
  obtain rfl := Host.Outcome.next.inj h
  exact ⟨rfl, rfl, rfl, rfl, rfl, rfl, rfl, rfl, rfl, rfl, rfl, rfl, rfl, rfl, fun _ => rfl⟩

/-- Settles O21: the two states decode the same bytes at the same address. -/
theorem decodeKeepsNoStateBetweenRequests : Obligations.DecodeKeepsNoStateBetweenRequests := by
  intro s s' hcs hip hmem hpair
  have hfa : s'.fetchAddr = s.fetchAddr := by rw [State.fetchAddr, State.fetchAddr, hcs, hip]
  refine ⟨_, _, step_eq_answered s, step_eq_answered s', ?_, ?_⟩
  · rw [hfa, hpair, fetchByte_congr hmem]; exact answered_rsp_congr _ _ _
  · rw [hfa, hpair, fetchByte_congr hmem]; exact answered_ip_congr _ hip

/-- From any other FLAGS value the same step is taken (R29). -/
theorem step_setFlags {s t : State} (v : Word) (h : step s = .next t) :
    step (s.setFlags v) = .next (t.setFlags v) := by
  rw [step_eq_answered] at h
  obtain rfl := Host.Outcome.next.inj h
  rw [step_eq_answered, ← answered_setFlags]
  rfl

theorem step_flags {s t : State} (h : step s = .next t) : t.flags = s.flags := by
  rw [step_eq_answered] at h
  obtain rfl := Host.Outcome.next.inj h
  rw [answered_sameButIpAndRsp]

/-- Settles O9: the flag facts are R28's and R29's on the word; no transaction's answer looks at FLAGS. -/
theorem flagsAreOpaqueAndUnusedByDecode : Obligations.FlagsAreOpaqueAndUnusedByDecode := by
  refine ⟨rfl, fun _ _ => rfl, fun _ _ => rfl, fun s f b => ⟨?_, fun k hk => ?_⟩, fun s t v h => ⟨?_, ?_⟩⟩
  · exact flagGet_flagPut_self s.flags f b
  · exact getLsbD_flagPut_of_ne s.flags f b hk
  · exact step_flags h
  · exact step_setFlags v h

/-! ### The register file (R20-R23) -/

/-- A register write leaves every register that is stored elsewhere (R22, R23). -/
theorem getReg_setReg_of_parentOf_ne (s : State) {r q : Register} (v : Word) (h : parentOf q ≠ parentOf r) :
    (s.setReg r v).getReg q = s.getReg q := by
  cases r <;> cases q <;> simp [parentOf, State.getReg, State.setReg] at h ⊢

/-- A 16-bit register write replaces the register (R23). -/
theorem getReg_setReg_self_of_word (s : State) {r : Register} (v : Word) (h : r.width = .word) :
    (s.setReg r v).getReg r = v := by
  cases r <;> simp [Register.width] at h <;> rfl

theorem getSReg_setSReg_self (s : State) (r : SReg) (v : Word) : (s.setSReg r v).getSReg r = v := by
  cases r <;> rfl

theorem getSReg_setSReg_of_ne (s : State) {r q : SReg} (v : Word) (h : q ≠ r) :
    (s.setSReg r v).getSReg q = s.getSReg q := by
  cases r <;> cases q <;> simp [State.getSReg, State.setSReg] at h ⊢

/-- R20's rows of halves: the low half, the high half and the register they are stored in. -/
def halfRows : List (Register × Register × Register) :=
  [(.al, .ah, .ax), (.cl, .ch, .cx), (.dl, .dh, .dx), (.bl, .bh, .bx)]

section HalfRows

variable {lo hi full : Register} (h : (lo, hi, full) ∈ halfRows)
include h

/-- What holds of each of the four rows holds of every row. -/
theorem halfRows_elim {P : Register → Register → Register → Prop} (ha : P .al .ah .ax) (hc : P .cl .ch .cx)
    (hd : P .dl .dh .dx) (hb : P .bl .bh .bx) : P lo hi full := by
  simp only [halfRows, List.mem_cons, List.not_mem_nil, or_false, Prod.mk.injEq] at h
  obtain ⟨rfl, rfl, rfl⟩ | ⟨rfl, rfl, rfl⟩ | ⟨rfl, rfl, rfl⟩ | ⟨rfl, rfl, rfl⟩ := h <;> assumption

theorem parentOf_low : parentOf lo = full := by
  apply halfRows_elim h <;> rfl

theorem parentOf_high : parentOf hi = full := by
  apply halfRows_elim h <;> rfl

theorem width_full : full.width = .word := by
  apply halfRows_elim h <;> rfl

/-- Only a row's own three names are stored in its register (R20). -/
theorem parentOf_ne_full {r : Register} : r ≠ lo → r ≠ hi → r ≠ full → parentOf r ≠ full := by
  apply halfRows_elim h <;> cases r <;> simp [parentOf]

theorem getReg_low (s : State) : s.getReg lo = (loByte (s.getReg full)).setWidth 16 := by
  apply halfRows_elim h <;> rfl

theorem getReg_high (s : State) : s.getReg hi = (hiByte (s.getReg full)).setWidth 16 := by
  apply halfRows_elim h <;> rfl

theorem getReg_full_setReg_low (s : State) (v : Byte) :
    (s.setReg lo (v.setWidth 16)).getReg full = putLo (s.getReg full) v := by
  apply halfRows_elim h <;> simp [State.getReg, State.setReg]

theorem getReg_full_setReg_high (s : State) (v : Byte) :
    (s.setReg hi (v.setWidth 16)).getReg full = putHi (s.getReg full) v := by
  apply halfRows_elim h <;> simp [State.getReg, State.setReg]

end HalfRows

/-- Settles O7: each half is a byte of the full register, and a half's write is `putLo` or `putHi` of it. -/
theorem halfRegisterWriteKeepsOtherHalf : Obligations.HalfRegisterWriteKeepsOtherHalf := by
  intro s v lo hi full (h : (lo, hi, full) ∈ halfRows)
  refine ⟨getReg_low h s, getReg_high h s, getReg_full_setReg_low h s v, getReg_full_setReg_high h s v,
    ?_, ?_, ?_, ?_, fun r hlo hhi hfull => ?_⟩
  · rw [getReg_low h, getReg_full_setReg_low h, loByte_putLo]
  · rw [getReg_high h, getReg_full_setReg_low h, hiByte_putLo, ← getReg_high h]
  · rw [getReg_high h, getReg_full_setReg_high h, hiByte_putHi]
  · rw [getReg_low h, getReg_full_setReg_high h, loByte_putHi, ← getReg_low h]
  · have hp : parentOf r ≠ full := parentOf_ne_full h hlo hhi hfull
    exact ⟨getReg_setReg_of_parentOf_ne s _ (by rwa [parentOf_low h]),
      getReg_setReg_of_parentOf_ne s _ (by rwa [parentOf_high h])⟩

/-- Settles O8: a row's halves are the bytes of the register just written. -/
theorem fullRegisterWriteReplacesAllBits : Obligations.FullRegisterWriteReplacesAllBits := by
  refine ⟨fun s r v => getReg_setReg_self_of_word s v, getSReg_setSReg_self, fun _ _ => rfl, ?_⟩
  intro s v lo hi full (h : (lo, hi, full) ∈ halfRows)
  have hself : (s.setReg full v).getReg full = v := getReg_setReg_self_of_word s v (width_full h)
  constructor
  · rw [getReg_low h, hself]; rfl
  · rw [getReg_high h, hself]; rfl

/-- Settles O10: `regOf` is R21's formula by definition, the rest is finite. -/
theorem registerNumbersNameRegistersInOrder : Obligations.RegisterNumbersNameRegistersInOrder :=
  ⟨by decide, fun _ => ⟨rfl, rfl⟩, rfl, by decide⟩

/-! ### Each agent's frame (R32) -/

/-- A decode request changes IP and the port only, and IP not where it answers an error. -/
theorem decodeRequest_frame {fa : Addr20} {s t : State} (h : decodeRequest fa s = .next t) :
    SameButIpAndRsp s t ∧ ∀ e, t.rsp = .err e → t.ip = s.ip := by
  rw [decodeRequest_eq_answered] at h
  obtain rfl := Host.Outcome.next.inj h
  exact ⟨answered_sameButIpAndRsp _ s, fun _ => answered_ip_of_err⟩

/-- The loader changes memory, the four segment registers and IP only (R251). -/
theorem load_frame (s : State) (seg off : Word) (image : List Byte) :
    s.load seg off image =
      { s with cs := seg, ds := seg, es := seg, ss := seg, ip := off, mem := (s.load seg off image).mem } := by
  rw [State.load, storeBytes_frame]

theorem memRead8_load_of_ne (s : State) {seg off : Word} {image : List Byte} {a : Addr20}
    (h : ∀ i < image.length, a ≠ PA seg off + BitVec.ofNat 20 i) :
    (s.load seg off image).memRead8 a = s.memRead8 a :=
  memRead8_storeBytes_of_ne s (PA seg off) a image h

theorem memRead8_push_of_ne (s : State) (v : Word) {a : Addr20} (h : a ≠ PA s.ss (s.sp - 2))
    (h' : a ≠ PA s.ss (s.sp - 2) + 1) : (s.push v).memRead8 a = s.memRead8 a :=
  memRead8_memWrite16_of_ne { s with sp := s.sp - 2 } v h h'

theorem setSReg_frame (s : State) (r : SReg) (v : Word) :
    s.setSReg r v = { s with cs := (s.setSReg r v).cs, ds := (s.setSReg r v).ds, es := (s.setSReg r v).es,
                             ss := (s.setSReg r v).ss } := by
  cases r <;> rfl

/-- Settles O46: agent by agent, from the frame of its operation. -/
theorem eachAgentWritesOnlyItsOwnState : Obligations.EachAgentWritesOnlyItsOwnState := by
  intro x s t h
  cases x with
  | decodeAt fa => exact decodeRequest_frame h
  | decodeNext => exact decodeRequest_frame h
  | load seg off image => cases h; exact ⟨load_frame s seg off image, fun a => memRead8_load_of_ne s⟩
  | push v => cases h; exact ⟨rfl, fun a => memRead8_push_of_ne s v⟩
  | pop => cases h; rfl
  | writeReg r v =>
    cases h
    exact ⟨by simp, by simp, by simp, by simp, by simp, by simp, by simp, by simp, by simp,
      fun q => getReg_setReg_of_parentOf_ne s v⟩
  | writeSReg r v => cases h; exact ⟨fun q => getSReg_setSReg_of_ne s v, setSReg_frame s r v⟩
  | writeIp v => cases h; rfl
  | writeFlags v => cases h; rfl
  | writeFlag f b => cases h; rfl
  | writeMem8 a v => cases h; rfl
  | writeMem16 a v => cases h; rfl

end Sys2Proof.Proofs

/-! Proofs of the statements about memory (20_memory.md): addresses and accesses, the stack services, and fetch
coherent with writes, which rests on the decoder reading back what the encoder writes. -/

namespace Sys2Proof.Proofs

open Sys2Proof.Machine Sys2Proof.Laws

/-! ### Memory accesses and the stack services (R40-R48) -/

theorem memRead16_push_self (s : State) (v : Word) : (s.push v).memRead16 (PA s.ss (s.sp - 2)) = v :=
  memRead16_memWrite16_self { s with sp := s.sp - 2 } (PA s.ss (s.sp - 2)) v

/-- Settles O2: the sum is `toNat_PA`; the example wraps to zero. -/
theorem physicalAddressIsSumModulo20Bits : Obligations.PhysicalAddressIsSumModulo20Bits :=
  ⟨toNat_PA, by decide⟩

/-- Settles O3: a byte read after a byte write, at the written address and at another one. -/
theorem byteWriteChangesOneByte : Obligations.ByteWriteChangesOneByte := fun s a v =>
  ⟨memRead8_memWrite8_self s a v, fun _ => memRead8_memWrite8_of_ne s v, rfl⟩

/-- Settles O4: a word is two bytes; each reads what the write stored there. -/
theorem wordAccessIsTwoBytesLittleEndian : Obligations.WordAccessIsTwoBytesLittleEndian := by
  refine ⟨memRead16_eq, fun s => memRead16_eq s 0xFFFFF, fun s a v => ⟨?_, ?_, ?_, ?_, ?_⟩⟩
  · exact memRead8_memWrite16_lo s a v
  · exact memRead8_memWrite16_hi s a v
  · exact memRead16_memWrite16_self s a v
  · exact fun b => memRead8_memWrite16_of_ne s v
  · rfl

/-- Settles O5: push is a word write at the lowered SP. -/
theorem pushWritesWordBelowStackPointer : Obligations.PushWritesWordBelowStackPointer := fun s v =>
  ⟨rfl, memRead16_push_self s v, fun _ => memRead8_push_of_ne s v, rfl⟩

/-- Settles O6: pop reads where push wrote, and SP - 2 + 2 is SP. -/
theorem popReadsAndUndoesPush : Obligations.PopReadsAndUndoesPush :=
  ⟨fun _ => rfl, fun s v => ⟨memRead16_push_self s v, BitVec.sub_add_cancel s.sp 2⟩⟩

/-! ### The decoder reads back what the encoder writes (R60-R69, R92) -/

/-- The encoder writes as many bytes as the instruction's length says (R68). -/
theorem length_encode (i : Instr) : (encode i).length = i.len := by
  cases i
  case movRm8R8 dst src => exact EncodedLength.movRm8R8 dst src
  case movRm16R16 dst src => exact EncodedLength.movRm16R16 dst src
  case movR8Rm8 dst src => exact EncodedLength.movR8Rm8 dst src
  case movR16Rm16 dst src => exact EncodedLength.movR16Rm16 dst src
  case movRm16Sreg dst src => exact EncodedLength.movRm16Sreg dst src
  case movSregRm16 dst src => exact EncodedLength.movSregRm16 dst src
  case movRm8Imm8 dst imm => exact EncodedLength.movRm8Imm8 dst imm
  case movRm16Imm16 dst imm => exact EncodedLength.movRm16Imm16 dst imm
  case leaR16M dst src => exact EncodedLength.leaR16M dst src
  case lesR16M32 dst src => exact EncodedLength.lesR16M32 dst src
  case ldsR16M32 dst src => exact EncodedLength.ldsR16M32 dst src
  all_goals rfl

/-- `B` begins with the bytes `l`. -/
def BeginsWith (B : Nat → Byte) (l : List Byte) : Prop := ∀ k < l.length, B k = listByte l k

@[simp] theorem beginsWith_nil (B : Nat → Byte) : BeginsWith B [] := fun _ hk => absurd hk (Nat.not_lt_zero _)

@[simp] theorem beginsWith_cons {B : Nat → Byte} {b : Byte} {l : List Byte} :
    BeginsWith B (b :: l) ↔ B 0 = b ∧ BeginsWith (fun k => B (k + 1)) l := by
  constructor
  · exact fun h => ⟨h 0 (Nat.zero_lt_succ _), fun k hk => h (k + 1) (Nat.succ_lt_succ hk)⟩
  · rintro ⟨h0, hl⟩ k hk
    cases k with
    | zero => exact h0
    | succ k => exact hl k (Nat.lt_of_succ_lt_succ hk)

@[simp] theorem beginsWith_append {B : Nat → Byte} {l l' : List Byte} :
    BeginsWith B (l ++ l') ↔ BeginsWith B l ∧ BeginsWith (fun k => B (l.length + k)) l' := by
  induction l generalizing B with
  | nil => simp
  | cons b l ih => simp [ih, and_assoc, Nat.add_right_comm]

@[simp] theorem beginsWith_wordBytes {B : Nat → Byte} {v : Word} :
    BeginsWith B (wordBytes v) ↔ B 0 = loByte v ∧ B 1 = hiByte v := by
  simp [wordBytes]

/-- An opcode, an operand's bytes and what follows them: the immediate stands after the displacement (R60). -/
theorem beginsWith_cons_rmBytes_append {B : Nat → Byte} {op : Byte} {reg : BitVec 3} {rm : RM} {l : List Byte} :
    BeginsWith B (op :: (rm.bytes reg ++ l)) ↔
      B 0 = op ∧ BeginsWith (fun k => B (k + 1)) (rm.bytes reg) ∧ BeginsWith (fun k => B (2 + rm.dlen + k)) l := by
  have hoff (k : Nat) : (rm.bytes reg).length + k + 1 = 2 + rm.dlen + k := by rw [length_rmBytes]; omega
  simp only [beginsWith_cons, beginsWith_append, hoff]

/-- The operand whose bytes follow the opcode is read back (R98, R100). -/
theorem readRM_of_beginsWith {w : Width} {rm : RM} {reg : BitVec 3} {B : Nat → Byte} (hwf : rm.wf w = true)
    (h : BeginsWith (fun k => B (k + 1)) (rm.bytes reg)) : readRM w B = (reg, rm) :=
  readRM_of_rmBytes hwf fun k hk => h k (by rwa [length_rmBytes])

/-- A memory operand whose bytes follow the opcode is read back (R100, R101). -/
theorem readRM_of_beginsWith_mem {m : Mem} {reg : BitVec 3} {B : Nat → Byte} (hwf : m.wf = true)
    (h : BeginsWith (fun k => B (k + 1)) (m.bytes reg)) : readRM .word B = (reg, .memOp m) :=
  readRM_of_beginsWith (rm := .memOp m) hwf h

theorem decode_of_opcode {p : BcdPair} {fa : Addr20} {B : Nat → Byte} {op : Byte} {fam : Family} (h0 : B 0 = op)
    (hfam : dispatchMap p op = some fam) : decode p fa B = familyDecode p fam fa B := by
  rw [decode, h0, hfam]

/-- The opcodes B0 to B7 are MOV of an 8-bit register (R21, R120). -/
theorem decode_movR8Imm8 {p : BcdPair} {fa : Addr20} {B : Nat → Byte} {dst : Register} (hw : dst.width = .byte)
    (h0 : B 0 = BitVec.ofNat 8 (0xB0 + dst.num.toNat)) : decode p fa B = .ok (.movR8Imm8 dst (B 1)) := by
  cases dst <;> cases hw <;> rw [decode_of_opcode (fam := .movRI) h0 rfl, familyDecode, decodeMovRI, h0] <;> rfl

/-- The opcodes B8 to BF are MOV of a 16-bit register (R21, R120). -/
theorem decode_movR16Imm16 {p : BcdPair} {fa : Addr20} {B : Nat → Byte} {dst : Register} (hw : dst.width = .word)
    (h0 : B 0 = BitVec.ofNat 8 (0xB8 + dst.num.toNat)) :
    decode p fa B = .ok (.movR16Imm16 dst (wordOf (B 1) (B 2))) := by
  cases dst <;> cases hw <;> rw [decode_of_opcode (fam := .movRI) h0 rfl, familyDecode, decodeMovRI, h0] <;> rfl

/-- Whatever bytes follow, a well-formed instruction's encoding decodes to it: the first byte selects the family,
and the family decoder finds each operand where the encoder put it. -/
theorem decode_encode {p : BcdPair} {fa : Addr20} {i : Instr} {B : Nat → Byte} (hwf : i.wf p = true)
    (h : BeginsWith B (encode i)) : decode p fa B = .ok i := by
  cases i <;> simp only [Instr.wf, Bool.and_eq_true, decide_eq_true_eq] at hwf
  case movR8Imm8 dst imm =>
    obtain ⟨h0, himm⟩ := beginsWith_cons.1 h
    rw [decode_movR8Imm8 hwf h0, (beginsWith_cons.1 himm).1]
  case movR16Imm16 dst imm =>
    obtain ⟨h0, himm⟩ := beginsWith_cons.1 h
    obtain ⟨hlo, hhi⟩ := beginsWith_wordBytes.1 himm
    rw [decode_movR16Imm16 hwf h0, hlo, hhi, wordOf_loByte_hiByte]
  case movRm8R8 dst src | movRm16R16 dst src =>
    obtain ⟨h0, hrm⟩ := beginsWith_cons.1 h
    rw [decode_of_opcode h0 rfl]
    simp [familyDecode, decodeMovRM, opWidth, h0, readRM_of_beginsWith hwf.1 hrm, regOf_num hwf.2]
  case movR8Rm8 dst src | movR16Rm16 dst src =>
    obtain ⟨h0, hrm⟩ := beginsWith_cons.1 h
    rw [decode_of_opcode h0 rfl]
    simp [familyDecode, decodeMovRM, opWidth, h0, readRM_of_beginsWith hwf.2 hrm, regOf_num hwf.1]
  case movRm16Sreg dst src | movSregRm16 dst src =>
    obtain ⟨h0, hrm⟩ := beginsWith_cons.1 h
    rw [decode_of_opcode h0 rfl]
    simp [familyDecode, decodeMovSreg, h0, readRM_of_beginsWith hwf hrm]
  case movRm8Imm8 dst imm | movRm16Imm16 dst imm =>
    obtain ⟨h0, hrm, himm⟩ := beginsWith_cons_rmBytes_append.1 h
    rw [decode_of_opcode h0 rfl]
    simp only [beginsWith_cons, beginsWith_wordBytes, Nat.add_zero] at himm
    simp [familyDecode, decodeMovRMI, opWidth, h0, readRM_of_beginsWith hwf hrm, himm]
  case leaR16M dst src | lesR16M32 dst src | ldsR16M32 dst src =>
    obtain ⟨h0, hrm⟩ := beginsWith_cons.1 h
    rw [decode_of_opcode h0 rfl]
    simp [familyDecode, decodePtr, h0, readRM_of_beginsWith_mem hwf.2 hrm, regOf_num hwf.1]
  all_goals simp only [encode, beginsWith_cons, beginsWith_wordBytes] at h
  case movAlMoffs8 addr | movAxMoffs16 addr | movMoffs8Al addr | movMoffs16Ax addr =>
    simp [decode_of_opcode h.1 rfl, familyDecode, decodeMovAcc, h]
  case jo rel | jno rel | jb rel | jae rel | je rel | jne rel | jbe rel | ja rel | js rel | jns rel |
      jp rel | jnp rel | jl rel | jge rel | jle rel | jg rel =>
    simp [decode_of_opcode h.1 rfl, familyDecode, decodeJcc, Cond.ofIndex, jccInstr, h]
  case loopnz rel | loopz rel | loop rel | jcxz rel =>
    simp [decode_of_opcode h.1 rfl, familyDecode, decodeLoop, h]
  case ret | retf | retImm16 adjust | retfImm16 adjust =>
    simp [decode_of_opcode h.1 rfl, familyDecode, decodeRet, h]
  case int3 | into | intImm8 vector =>
    simp [decode_of_opcode h.1 rfl, familyDecode, decodeInt, h]
  case inAlImm8 port | inAxImm8 port | outImm8Al port | outImm8Ax port | inAlDx | inAxDx | outDxAl | outDxAx =>
    simp [decode_of_opcode h.1 rfl, familyDecode, decodeIo, h]
  case aamImm8 base | aadImm8 base =>
    simp [decode_of_opcode h.1 rfl, familyDecode, decodeNoOp, oneByteNoOp, h]
  case aaa | aas | daa | das =>
    subst hwf
    simp [decode, dispatchMap, familyDecode, decodeNoOp, oneByteNoOp, h]
  all_goals simp [decode_of_opcode h.1 rfl, familyDecode, decodeNoOp, oneByteNoOp, h]

/-! ### Fetch is coherent with writes (R56, R93) -/

/-- Bytes stored at an address are the instruction bytes read from there. -/
theorem beginsWith_fetchByte_storeBytes (s : State) (a : Addr20) {l : List Byte} (hl : l.length ≤ 2 ^ 20) :
    BeginsWith ((s.storeBytes a l).fetchByte a) l := fun k hk => by
  rw [State.fetchByte, memRead8_storeBytes s a l hl k hk, listByte, List.getD_eq_getElem l 0 hk]

theorem length_encode_le (i : Instr) : (encode i).length ≤ 6 :=
  length_encode i ▸ (len_bounds i).2

/-- `step` is the meaning of the instruction that decodes at the fetch address (R91, R92). -/
theorem step_eq_exec {s : State} {i : Instr} (h : decode s.bcdPair s.fetchAddr (s.fetchByte s.fetchAddr) = .ok i) :
    step s = exec i s := by
  rw [step_eq, decodeRequest, h]

/-- Storing bytes moves no fetch address: CS and IP stay. -/
@[simp] theorem fetchAddr_storeBytes (s : State) (a : Addr20) (l : List Byte) :
    (s.storeBytes a l).fetchAddr = s.fetchAddr := by
  simp [State.fetchAddr]

/-- Settles O26: the stored encoding is what the next fetch reads, and it decodes to its instruction. -/
theorem storedInstructionIsTheNextExecuted : Obligations.StoredInstructionIsTheNextExecuted := by
  intro s i hwf
  have hlen : (encode i).length ≤ 2 ^ 20 := le_trans (length_encode_le i) (by decide)
  apply step_eq_exec
  rw [storeBytes_bcdPair, fetchAddr_storeBytes]
  exact decode_encode hwf (beginsWith_fetchByte_storeBytes s s.fetchAddr hlen)

end Sys2Proof.Proofs

/-! Proofs of the statements about the encoding (30_encoding.md): decoder and encoder are inverse to each other,
the length table, the unknown first bytes, the prefixes, and the addressing forms. -/

namespace Sys2Proof.Proofs

open Sys2Proof.Machine Sys2Proof.Laws Sys2Proof.Spec

/-! ### Decoder and encoder are inverse to each other (R60-R69, R92) -/

/-- Settles O22: `decode_encode`, with the length read off the encoding. -/
theorem decodeOfEncodeIsIdentity : Obligations.DecodeOfEncodeIsIdentity := fun _ _ i _ hwf h =>
  decode_encode hwf fun k hk => h k (length_encode i ▸ hk)

/-- The answer of a decode of `B` is an error, or an instruction whose encoding `B` begins with. -/
def EncodedIn (B : Nat → Byte) : DecodeResult → Prop
  | .ok i => BeginsWith B (encode i)
  | .err _ => True

@[simp] theorem encodedIn_ok {B : Nat → Byte} {i : Instr} : EncodedIn B (.ok i) ↔ BeginsWith B (encode i) := Iff.rfl

@[simp] theorem encodedIn_unknownOpcode (B : Nat → Byte) (fa : Addr20) : EncodedIn B (unknownOpcode fa B) := trivial

@[simp] theorem encodedIn_modRMError (B : Nat → Byte) (kind : DecodeErrorKind) (fa : Addr20) :
    EncodedIn B (modRMError kind fa B) := trivial

/-- The word read from two bytes is encoded as those bytes (R42, R67). -/
@[simp] theorem wordBytes_wordOf (lo hi : Byte) : wordBytes (wordOf lo hi) = [lo, hi] := by
  simp [wordBytes]

/-- The operand that is read after the opcode is encoded as the bytes after the opcode (R62, R64, R100). -/
@[simp] theorem beginsWith_rmBytes_readRM (w : Width) (B : Nat → Byte) :
    BeginsWith (fun k => B (k + 1)) ((readRM w B).2.bytes (regField (B 1))) := fun k hk =>
  (rmBytes_readRM w B k (by rwa [length_rmBytes] at hk)).symm

theorem encodedIn_decodeMovRI {p : BcdPair} {B : Nat → Byte} (h : dispatchMap p (B 0) = some .movRI) :
    EncodedIn B (decodeMovRI B) := by
  have hdec : decode p 0 B = decodeMovRI B := decode_of_opcode rfl h
  obtain ⟨r, hop | hop⟩ := dispatch_movRI h
  · rw [← num_regOf .byte r] at hop
    rw [← hdec, decode_movR8Imm8 (width_regOf .byte r) hop]
    simp [encode, hop]
  · rw [← num_regOf .word r] at hop
    rw [← hdec, decode_movR16Imm16 (width_regOf .word r) hop]
    simp [encode, hop]

theorem encodedIn_decodeMovAcc {p : BcdPair} {fa : Addr20} {B : Nat → Byte}
    (h : dispatchMap p (B 0) = some .movAcc) : EncodedIn B (decodeMovAcc fa B) := by
  rcases dispatch_movAcc h with hop | hop | hop | hop <;> simp [decodeMovAcc, hop, encode]

theorem encodedIn_decodeMovRM {p : BcdPair} {B : Nat → Byte} (h : dispatchMap p (B 0) = some .movRM) :
    EncodedIn B (decodeMovRM B) := by
  rcases dispatch_movRM h with hop | hop | hop | hop <;> simp [decodeMovRM, opWidth, hop, encode, num_regOf]

theorem encodedIn_decodeMovSreg {p : BcdPair} {fa : Addr20} {B : Nat → Byte}
    (h : dispatchMap p (B 0) = some .movSreg) : EncodedIn B (decodeMovSreg fa B) := by
  cases hs : SReg.ofNum (regField (B 1)) with
  | none => simp [decodeMovSreg, hs]
  | some sr => rcases dispatch_movSreg h with hop | hop <;> simp [decodeMovSreg, hs, hop, encode, num_ofNum hs]

/-- The reg field is zero, and the immediate follows the displacement (R60, R127). -/
theorem encodedIn_decodeMovRMI {p : BcdPair} {fa : Addr20} {B : Nat → Byte}
    (h : dispatchMap p (B 0) = some .movRMI) : EncodedIn B (decodeMovRMI fa B) := by
  by_cases hreg : regField (B 1) = 0#3
  · have hrm (w : Width) : BeginsWith (fun k => B (k + 1)) ((readRM w B).2.bytes 0#3) :=
      hreg ▸ beginsWith_rmBytes_readRM w B
    rcases dispatch_movRMI h with hop | hop
    · have hdec : decodeMovRMI fa B = .ok (.movRm8Imm8 (readRM .byte B).2 (B (2 + (readRM .byte B).2.dlen))) := by
        simp [decodeMovRMI, opWidth, hreg, hop]
      rw [hdec]
      exact beginsWith_cons_rmBytes_append.2 ⟨hop, hrm .byte, by simp⟩
    · have hdec : decodeMovRMI fa B = .ok (.movRm16Imm16 (readRM .word B).2
          (wordOf (B (2 + (readRM .word B).2.dlen)) (B (2 + (readRM .word B).2.dlen + 1)))) := by
        simp [decodeMovRMI, opWidth, hreg, hop]
      rw [hdec]
      exact beginsWith_cons_rmBytes_append.2 ⟨hop, hrm .word, by simp⟩
  · simp [decodeMovRMI, hreg]

theorem encodedIn_decodePtr {p : BcdPair} {fa : Addr20} {B : Nat → Byte}
    (h : dispatchMap p (B 0) = some .ptr) : EncodedIn B (decodePtr fa B) := by
  have hbytes := beginsWith_rmBytes_readRM .word B
  cases hrm : (readRM .word B).2 with
  | regOp r => simp [decodePtr, hrm]
  | memOp m =>
    rw [hrm, RM.bytes] at hbytes
    rcases dispatch_ptr h with hop | hop | hop <;> simp [decodePtr, hrm, hop, encode, num_regOf, hbytes]

/-- The n-th condition's jump has the opcode 70 + n (R140, R141). -/
theorem encode_jccInstr_ofIndex (rel : Byte) (n : Fin 16) :
    encode (jccInstr rel (.ofIndex n.val)) = [BitVec.ofNat 8 (0x70 + n.val), rel] := by
  fin_cases n <;> rfl

theorem encodedIn_decodeJcc {p : BcdPair} {B : Nat → Byte} (h : dispatchMap p (B 0) = some .jcc) :
    EncodedIn B (decodeJcc B) := by
  obtain ⟨n, hop⟩ := dispatch_jcc h
  have hn : (B 0).toNat - 0x70 = n.val := by rw [hop, BitVec.toNat_ofNat]; omega
  rw [decodeJcc, hn, encodedIn_ok, encode_jccInstr_ofIndex]
  simp [hop]

theorem encodedIn_decodeLoop {p : BcdPair} {fa : Addr20} {B : Nat → Byte}
    (h : dispatchMap p (B 0) = some .loop) : EncodedIn B (decodeLoop fa B) := by
  rcases dispatch_loop h with hop | hop | hop | hop <;> simp [decodeLoop, hop, encode]

theorem encodedIn_decodeRet {p : BcdPair} {fa : Addr20} {B : Nat → Byte}
    (h : dispatchMap p (B 0) = some .ret) : EncodedIn B (decodeRet fa B) := by
  rcases dispatch_ret h with hop | hop | hop | hop <;> simp [decodeRet, hop, encode]

theorem encodedIn_decodeInt {p : BcdPair} {fa : Addr20} {B : Nat → Byte}
    (h : dispatchMap p (B 0) = some .int) : EncodedIn B (decodeInt fa B) := by
  rcases dispatch_int h with hop | hop | hop <;> simp [decodeInt, hop, encode]

theorem encodedIn_decodeIo {p : BcdPair} {fa : Addr20} {B : Nat → Byte}
    (h : dispatchMap p (B 0) = some .io) : EncodedIn B (decodeIo fa B) := by
  rcases dispatch_io h with hop | hop | hop | hop | hop | hop | hop | hop <;> simp [decodeIo, hop, encode]

theorem encodedIn_decodeNoOp {p : BcdPair} {fa : Addr20} {B : Nat → Byte}
    (h : dispatchMap p (B 0) = some .noop) : EncodedIn B (decodeNoOp p fa B) := by
  cases hone : oneByteNoOp p (B 0) with
  | some i => simp [decodeNoOp, hone, (oneByteNoOp_spec hone).1]
  | none =>
    rcases dispatch_noop h with hsome | hop | hop
    · simp [hone] at hsome
    · simp only [decodeNoOp, hone]; simp [hop, encode]
    · simp only [decodeNoOp, hone]; simp [hop, encode]

/-- Every instruction that decodes is encoded in the bytes it was decoded from. -/
theorem encodedIn_decode (p : BcdPair) (fa : Addr20) (B : Nat → Byte) : EncodedIn B (decode p fa B) := by
  cases h : dispatchMap p (B 0) with
  | none => simp [decode, h]
  | some fam =>
    rw [decode_of_opcode rfl h]
    cases fam with
    | movRI => exact encodedIn_decodeMovRI h
    | movAcc => exact encodedIn_decodeMovAcc h
    | movRM => exact encodedIn_decodeMovRM h
    | movSreg => exact encodedIn_decodeMovSreg h
    | movRMI => exact encodedIn_decodeMovRMI h
    | ptr => exact encodedIn_decodePtr h
    | jcc => exact encodedIn_decodeJcc h
    | loop => exact encodedIn_decodeLoop h
    | ret => exact encodedIn_decodeRet h
    | int => exact encodedIn_decodeInt h
    | io => exact encodedIn_decodeIo h
    | noop => exact encodedIn_decodeNoOp h

theorem beginsWith_encode_of_decode {p : BcdPair} {fa : Addr20} {B : Nat → Byte} {i : Instr}
    (h : decode p fa B = .ok i) : BeginsWith B (encode i) := by
  have hin := encodedIn_decode p fa B
  rwa [h] at hin

theorem wf_of_decode {p : BcdPair} {fa : Addr20} {B : Nat → Byte} {i : Instr} (h : decode p fa B = .ok i) :
    i.wf p = true := by
  have hwf := decode_wf p fa B
  rwa [h] at hwf

/-- Settles O23: the decoded instruction is legal, and its encoding is what the stream begins with. -/
theorem encodeOfDecodeIsConsumedBytes : Obligations.EncodeOfDecodeIsConsumedBytes := fun _ _ i _ h =>
  ⟨wf_of_decode h, length_encode i, fun k hk => (beginsWith_encode_of_decode h k (by rwa [length_encode])).symm⟩

/-! ### The length table (R65, R68) -/

/-- `dlen` by mod and rm is the length of the displacement class that the ModR/M decoder returns (R65, R98). -/
theorem dlenOf_eq (m : Byte) : dlenOf m = DispClass.len (modRM m).dispClass := by
  revert m; decide

/-- An operand's displacement length is `dlen` of the ModR/M byte that its encoding begins with (R65). -/
theorem dlenOf_of_beginsWith {w : Width} {rm : RM} {reg : BitVec 3} {B : Nat → Byte} (hwf : rm.wf w = true)
    (h : BeginsWith (fun k => B (k + 1)) (rm.bytes reg)) : dlenOf (B 1) = rm.dlen := by
  rw [dlenOf_eq, ← readRM_dlen w, readRM_of_beginsWith hwf h]

/-- A memory operand's displacement length is `dlen` of the ModR/M byte that its encoding begins with (R65). -/
theorem dlenOf_of_beginsWith_mem {m : Mem} {reg : BitVec 3} {B : Nat → Byte} (hwf : m.wf = true)
    (h : BeginsWith (fun k => B (k + 1)) (m.bytes reg)) : dlenOf (B 1) = m.dlen :=
  dlenOf_of_beginsWith (w := .word) (rm := .memOp m) hwf h

/-- The row of the opcodes B0 to B7. -/
theorem lengthOf_movR8Imm8 (r : BitVec 3) (b1 : Byte) : lengthOf (BitVec.ofNat 8 (0xB0 + r.toNat)) b1 = 2 := by
  have hr := r.isLt
  simp only [lengthOf, BitVec.toNat_ofNat]
  rw [if_pos (by omega)]

/-- The row of the opcodes B8 to BF. -/
theorem lengthOf_movR16Imm16 (r : BitVec 3) (b1 : Byte) : lengthOf (BitVec.ofNat 8 (0xB8 + r.toNat)) b1 = 3 := by
  have hr := r.isLt
  simp only [lengthOf, BitVec.toNat_ofNat]
  rw [if_neg (by omega), if_pos (by omega)]

/-- The table gives a well-formed instruction's length from the first two bytes of its encoding. -/
theorem lengthOf_of_beginsWith {p : BcdPair} {i : Instr} {B : Nat → Byte} (hwf : i.wf p = true)
    (h : BeginsWith B (encode i)) : i.len = lengthOf (B 0) (B 1) := by
  cases i <;> simp only [Instr.wf, Bool.and_eq_true, decide_eq_true_eq] at hwf
  case movR8Imm8 dst imm => rw [(beginsWith_cons.1 h).1, lengthOf_movR8Imm8, Instr.len]
  case movR16Imm16 dst imm => rw [(beginsWith_cons.1 h).1, lengthOf_movR16Imm16, Instr.len]
  case movRm8R8 dst src | movRm16R16 dst src =>
    obtain ⟨h0, hrm⟩ := beginsWith_cons.1 h
    simp [Instr.len, lengthOf, h0, dlenOf_of_beginsWith hwf.1 hrm]
  case movR8Rm8 dst src | movR16Rm16 dst src =>
    obtain ⟨h0, hrm⟩ := beginsWith_cons.1 h
    simp [Instr.len, lengthOf, h0, dlenOf_of_beginsWith hwf.2 hrm]
  case movRm16Sreg dst src | movSregRm16 dst src =>
    obtain ⟨h0, hrm⟩ := beginsWith_cons.1 h
    simp [Instr.len, lengthOf, h0, dlenOf_of_beginsWith hwf hrm]
  case movRm8Imm8 dst imm | movRm16Imm16 dst imm =>
    obtain ⟨h0, hrm, _⟩ := beginsWith_cons_rmBytes_append.1 h
    simp [Instr.len, lengthOf, h0, dlenOf_of_beginsWith hwf hrm]
  case leaR16M dst src | lesR16M32 dst src | ldsR16M32 dst src =>
    obtain ⟨h0, hrm⟩ := beginsWith_cons.1 h
    simp [Instr.len, lengthOf, h0, dlenOf_of_beginsWith_mem hwf.2 hrm]
  all_goals
    have h0 := (beginsWith_cons.1 h).1
    simp [Instr.len, lengthOf, h0]

/-- Settles O16: an answered value's length is its instruction's, whose encoding the two bytes begin. -/
theorem lengthFollowsTheLengthTable : Obligations.LengthFollowsTheLengthTable := by
  intro fa s t v h hv
  obtain ⟨i, hdec, hreq⟩ | ⟨e, _, hreq⟩ := decodeRequest_cases fa s <;>
    obtain rfl := Host.Outcome.next.inj (hreq.symm.trans h)
  · obtain rfl := Rsp.ok.inj hv
    rw [insnOf_len]
    exact lengthOf_of_beginsWith (wf_of_decode hdec) (beginsWith_encode_of_decode hdec)
  · cases hv

/-! ### First bytes without a family, and prefixes (R70, R71, R74) -/

/-- The dispatch map has no family for the bytes of R70's list. -/
theorem dispatchMap_eq_none_of_unknownByte {p : BcdPair} {b : Byte} (h : unknownByte p b = true) :
    dispatchMap p b = none := by
  cases p <;> revert b <;> decide

theorem decodeRequest_of_dispatchMap_eq_none {fa : Addr20} {s : State}
    (h : dispatchMap s.bcdPair (s.fetchByte fa 0) = none) :
    decodeRequest fa s = rejects s ⟨.unknownOpcode, fa, [s.fetchByte fa 0]⟩ := by
  rw [decodeRequest, decode, h]; rfl

/-- Settles O11: the listed bytes have no family; the count is finite. -/
theorem unknownFirstByteRaisesUnknownOpcode : Obligations.UnknownFirstByteRaisesUnknownOpcode :=
  ⟨fun _ _ h => decodeRequest_of_dispatchMap_eq_none (dispatchMap_eq_none_of_unknownByte h),
    fun p => by cases p <;> rfl⟩

/-- The bytes that are prefixes, with the value each answers (R74, R183-R189). -/
def prefixes : List (Byte × Body) :=
  [(0x26, .seg .es), (0x2E, .seg .cs), (0x36, .seg .ss), (0x3E, .seg .ds), (0xF0, .simple .lock), (0xF2, .rep false),
    (0xF3, .rep true)]

/-- Each of these bytes is the whole encoding of an instruction that answers the value beside it (R74). -/
theorem exists_instr_of_mem_prefixes {x : Byte × Body} (h : x ∈ prefixes) (p : BcdPair) :
    ∃ i : Instr, i.wf p = true ∧ encode i = [x.1] ∧ insnOf i = ⟨x.2, 1⟩ := by
  simp only [prefixes, List.mem_cons, List.not_mem_nil, or_false] at h
  rcases h with rfl | rfl | rfl | rfl | rfl | rfl | rfl
  · exact ⟨.segEs, rfl, rfl, rfl⟩
  · exact ⟨.segCs, rfl, rfl, rfl⟩
  · exact ⟨.segSs, rfl, rfl, rfl⟩
  · exact ⟨.segDs, rfl, rfl, rfl⟩
  · exact ⟨.lock, rfl, rfl, rfl⟩
  · exact ⟨.repne, rfl, rfl, rfl⟩
  · exact ⟨.rep, rfl, rfl, rfl⟩

/-- Where an instruction's encoding stands at the fetch address, a step answers its value. -/
theorem step_of_beginsWith {s : State} {i : Instr} (hwf : i.wf s.bcdPair = true)
    (h : BeginsWith (s.fetchByte s.fetchAddr) (encode i)) : step s = answers s (insnOf i).body (insnOf i).len := by
  rw [step_eq_exec (decode_encode hwf h), exec_eq_emit]; rfl

/-- Settles O45: the byte is an instruction of its own; the next step decodes in a state that differs in IP and
the port only, so it runs what stands at the next byte. -/
theorem prefixesAreInstructionsOfTheirOwn : Obligations.PrefixesAreInstructionsOfTheirOwn := by
  intro s x (hx : x ∈ prefixes) hop
  obtain ⟨i, hwf, henc, hval⟩ := exists_instr_of_mem_prefixes hx s.bcdPair
  have hstep := step_of_beginsWith hwf (henc ▸ beginsWith_cons.2 ⟨hop, beginsWith_nil _⟩)
  rw [hval] at hstep
  exact ⟨_, hstep, rfl, rfl, fun j hj => step_eq_exec hj⟩

/-! ### Addressing forms (R64, R106, R107) -/

/-- Base plus index, form by form (R64). -/
theorem base_add_index_eq_eaOf (s : State) (f : Fin 24) :
    s.optReg (formBase f) + s.optReg (formIndex f) = eaOf s (f.val % 8) (decide (f.val = 6)) := by
  by_cases h6 : f.val = 6
  · simp [formBase, formIndex, eaOf, State.optReg, h6]
  · have hrm : f.val % 8 < 8 := Nat.mod_lt _ (by decide)
    simp only [formBase, formIndex, h6, if_false, decide_false]
    interval_cases f.val % 8 <;> simp [eaOf, State.optReg, State.getReg]

/-- The forms whose base is BP (R64, R107). -/
theorem defaultSeg_eq_ss_iff (f : Fin 24) :
    defaultSeg f = .ss ↔ f.val ∈ [2, 3, 10, 11, 14, 18, 19, 22] := by
  revert f; decide

/-- The default segment is one of two (R107). -/
theorem defaultSeg_eq_ds_iff (f : Fin 24) : defaultSeg f = .ds ↔ ¬ defaultSeg f = .ss := by
  unfold defaultSeg; split <;> simp

/-- Settles O53: base plus index by the form table; the displacement's value is the statement's own. -/
theorem stageEffectiveAddressFollowsFormTable : Obligations.StageEffectiveAddressFollowsFormTable := by
  intro s m
  refine ⟨?_, defaultSeg_eq_ss_iff m.form, (defaultSeg_eq_ds_iff m.form).trans (defaultSeg_eq_ss_iff m.form).not⟩
  rw [State.ea, base_add_index_eq_eaOf]
  cases m.disp <;> rfl

end Sys2Proof.Proofs

/-! Proofs of the statements about the decode pipeline (40_decode_pipeline.md): what a request that answers a value
or an error has decoded, the ModR/M decoder and the operand reader, IP after a step, and that an answer depends on
the consumed bytes only and determines them. -/

namespace Sys2Proof.Proofs

open Sys2Proof.Machine Sys2Proof.Laws Sys2Proof.Spec

/-- Settles O50: a step is a decode request, and every request keeps the invariant. -/
theorem stepKeepsInvariant : Obligations.StepKeepsInvariant := fun _ _ hs h => decodeRequest_keeps_inv hs h

/-! ### What a request has decoded, read off its answer (R90-R92) -/

/-- A request that answers a value has decoded an instruction that emits it. -/
theorem exists_decode_of_rsp_ok {fa : Addr20} {s t : State} {v : Insn} (h : decodeRequest fa s = .next t)
    (hv : t.rsp = .ok v) :
    ∃ i, decode s.bcdPair fa (s.fetchByte fa) = .ok i ∧ v = insnOf i ∧ t = answered (.ok i) s := by
  rw [decodeRequest_eq_answered] at h
  obtain rfl := Host.Outcome.next.inj h
  cases hdec : decode s.bcdPair fa (s.fetchByte fa) with
  | ok i =>
    rw [hdec] at hv
    exact ⟨i, rfl, (Rsp.ok.inj hv).symm, rfl⟩
  | err e => rw [hdec] at hv; cases hv

/-- A request that answers an error has decoded to that error. -/
theorem decode_eq_err_of_rsp_err {fa : Addr20} {s t : State} {e : DecodeError} (h : decodeRequest fa s = .next t)
    (he : t.rsp = .err e) : decode s.bcdPair fa (s.fetchByte fa) = .err e := by
  rw [decodeRequest_eq_answered] at h
  obtain rfl := Host.Outcome.next.inj h
  cases hdec : decode s.bcdPair fa (s.fetchByte fa) with
  | ok i => rw [hdec] at he; cases he
  | err e' =>
    rw [hdec] at he
    rw [Rsp.err.inj he]

theorem decodeRequest_of_decode_ok {fa : Addr20} {s : State} {i : Instr}
    (h : decode s.bcdPair fa (s.fetchByte fa) = .ok i) :
    decodeRequest fa s = answers s (insnOf i).body (insnOf i).len := by
  rw [decodeRequest, h]
  exact exec_eq_emit i s

theorem decodeRequest_of_decode_err {fa : Addr20} {s : State} {e : DecodeError}
    (h : decode s.bcdPair fa (s.fetchByte fa) = .err e) : decodeRequest fa s = rejects s e := by
  rw [decodeRequest, h]; rfl

/-- Settles O25: `step` is the request at PA(CS, IP), which runs what it decoded or raises the error. -/
theorem stepRunsTheDecodedInstruction : Obligations.StepRunsTheDecodedInstruction := fun _ =>
  ⟨fun _ h => step_eq_exec h, fun _ h => decodeRequest_of_decode_err h⟩

/-- The port shows a value or an error after every request. -/
theorem exists_decodeRequest_eq_next (fa : Addr20) (s : State) :
    ∃ t, decodeRequest fa s = .next t ∧ ((∃ v, t.rsp = .ok v) ∨ ∃ e, t.rsp = .err e) := by
  obtain ⟨i, _, hreq⟩ | ⟨e, _, hreq⟩ := decodeRequest_cases fa s
  · exact ⟨_, hreq, .inl ⟨insnOf i, rfl⟩⟩
  · exact ⟨_, hreq, .inr ⟨e, rfl⟩⟩

/-- A step on the whole encoding of a one-byte instruction advances IP by 1. -/
theorem exists_step_of_opcodeIs {s : State} {i : Instr} {op : Byte} (hwf : i.wf s.bcdPair = true)
    (henc : encode i = [op]) (hop : opcodeIs s op) : ∃ t, step s = .next t ∧ t.ip = s.ip + 1 := by
  have hstep := step_of_beginsWith hwf (henc ▸ beginsWith_cons.2 ⟨hop, beginsWith_nil _⟩)
  have hlen : (insnOf i).len = 1 := by rw [insnOf_len, ← length_encode, henc]; rfl
  rw [hlen] at hstep
  exact ⟨_, hstep, rfl⟩

/-- Settles O27: a decode answers or errs; HLT and WAIT are one-byte instructions like any other. -/
theorem everyRequestIsAnswered : Obligations.EveryRequestIsAnswered := by
  refine ⟨exists_decodeRequest_eq_next, fun s hop => ?_⟩
  obtain ⟨t, hstep, hip⟩ : ∃ t, step s = .next t ∧ t.ip = s.ip + 1 := by
    obtain hlt | hwait := hop
    · exact exists_step_of_opcodeIs (i := .hlt) rfl rfl hlt
    · exact exists_step_of_opcodeIs (i := .wait) rfl rfl hwait
  obtain ⟨u, hnext, hans⟩ := exists_decodeRequest_eq_next t.fetchAddr t
  exact ⟨t, u, hstep, hip, hnext, hans⟩

/-! ### The ModR/M byte and the operand reader (R62, R98, R100) -/

theorem toNat_modField (m : Byte) : (modField m).toNat = m.toNat / 64 := by
  have := m.isLt
  simp only [modField, BitVec.extractLsb'_toNat, Nat.shiftRight_eq_div_pow]
  omega

theorem toNat_regField (m : Byte) : (regField m).toNat = m.toNat / 8 % 8 := by
  simp only [regField, BitVec.extractLsb'_toNat, Nat.shiftRight_eq_div_pow]

theorem rmField_eq_ofNat (m : Byte) : rmField m = BitVec.ofNat 3 (m.toNat % 8) := by
  apply BitVec.eq_of_toNat_eq
  simp [rmField]

/-- Settles O17: the fields are the quotients and remainders of the byte, and the decoder branches on them. -/
theorem modRMDecodesAsPseudocode : Obligations.ModRMDecodesAsPseudocode := by
  intro m mod rm
  have hmod : (modField m).toNat = mod := toNat_modField m
  have hrm : rmField m = BitVec.ofNat 3 rm := rmField_eq_ofNat m
  have hval : (BitVec.ofNat 3 rm).toNat = rm := by rw [BitVec.toNat_ofNat]; omega
  refine ⟨?_, fun h => ?_, fun h => ?_, fun h => ?_, fun h => ?_, fun h => ?_⟩
  · rw [modRM_reg, toNat_regField]
  · simp [modRM, hmod, hrm, h]
  · simp [modRM, hmod, hrm, h]
  · have hne : BitVec.ofNat 3 rm ≠ 6#3 := fun e => h.2 (by rw [← hval, e]; rfl)
    simp [modRM, hmod, hrm, h.1, hne, hval]
  · simp [modRM, hmod, hrm, h, hval]
  · simp [modRM, hmod, hrm, h, hval]

/-- Settles O18: one branch of the reader for each result of the ModR/M decoder. -/
theorem operandReaderFollowsModRM : Obligations.OperandReaderFollowsModRM := by
  intro w B
  refine ⟨?_, fun r hr => ?_, fun f hf => ⟨fun hd => ?_, fun hd => ?_, fun hd => ?_⟩⟩
  · rw [readRM_fst, modRM_reg]
  · simp only [readRM, hr]
  · simp only [readRM, hf, hd]
  · simp only [readRM, hf, hd]
  · simp only [readRM, hf, hd, wordOf]

/-! ### IP after a value (R94, R95) -/

/-- Settles O14: the state is the old one with IP advanced by the instruction's length. -/
theorem successAdvancesIpByReportedLength : Obligations.SuccessAdvancesIpByReportedLength := by
  intro fa s t v h hv
  obtain ⟨i, _, rfl, rfl⟩ := exists_decode_of_rsp_ok h hv
  have hlen := len_bounds i
  rw [insnOf_len]
  refine ⟨?_, hlen.1, hlen.2, rfl, fun _ => rfl⟩
  rw [answered, BitVec.toNat_add, BitVec.toNat_ofNat, Nat.add_mod_mod]

/-- Where the offset does not wrap, advancing it advances the physical address (R40, R95). -/
theorem PA_add_of_le (seg off : Word) {n : Nat} (h : off.toNat + n ≤ 0xFFFF) :
    PA seg (off + BitVec.ofNat 16 n) = PA seg off + BitVec.ofNat 20 n := by
  apply BitVec.eq_of_toNat_eq
  simp only [toNat_PA, BitVec.toNat_add, BitVec.toNat_ofNat]
  omega

/-- Settles O15: only IP has moved, so the next fetch address is PA(CS, IP + len). -/
theorem ipPointsAtTheNextInstruction : Obligations.IpPointsAtTheNextInstruction := by
  intro s t v h hv
  obtain ⟨i, _, rfl, rfl⟩ := exists_decode_of_rsp_ok h hv
  rw [insnOf_len]
  exact ⟨rfl, rfl, PA_add_of_le s.cs s.ip⟩

/-! ### Memory operands (R101) -/

/-- A legal memory operand has the displacement of R101's table. -/
theorem dispFits_of_wf {m : Mem} (h : m.wf = true) : dispFits m := by
  obtain ⟨f, d⟩ := m
  cases d <;> simp [Mem.wf, dispFits] at h ⊢ <;> omega

/-- The memory operands of a legal value are legal. -/
theorem wf_of_mem_memsOf {p : BcdPair} {b : Body} {m : Mem} (hwf : bodyWf p b = true) (hm : m ∈ memsOf b) :
    m.wf = true := by
  unfold memsOf at hm
  split at hm <;> simp_all [bodyWf, RM.wf]

/-- Settles O19: a decoded instruction is legal, and so are the operands of the value it emits. -/
theorem decodedMemoryOperandsHaveFittingDisplacement :
    Obligations.DecodedMemoryOperandsHaveFittingDisplacement := by
  intro fa s t v m h hv hm
  obtain ⟨i, hdec, rfl, _⟩ := exists_decode_of_rsp_ok h hv
  have hbody : bodyWf s.bcdPair (insnOf i).body = true := by rw [bodyWf_insnOf, wf_of_decode hdec]
  exact dispFits_of_wf (wf_of_mem_memsOf hbody hm)

/-! ### A value determines its bytes (D39) -/

/-- The instruction of a no-operand value (R102). -/
def instrOfNoOp : NoOp → Instr
  | .hlt => .hlt | .nop => .nop | .wait => .wait | .lock => .lock | .clc => .clc | .stc => .stc | .cmc => .cmc
  | .cld => .cld | .std => .std | .cli => .cli | .sti => .sti | .cbw => .cbw | .cwd => .cwd | .aaa => .aaa
  | .aas => .aas | .daa => .daa | .das => .das | .lahf => .lahf | .sahf => .sahf | .pushf => .pushf
  | .popf => .popf | .iret => .iret | .xlat => .xlat

/-- The instruction that emits a value: R102's variants read back as rows of the opcode table. -/
def instrOf : Body → Instr
  | .movRegImm dst (.i8 imm) => .movR8Imm8 dst imm
  | .movRegImm dst (.i16 imm) => .movR16Imm16 dst imm
  | .movAccMem .byte addr => .movAlMoffs8 addr
  | .movAccMem .word addr => .movAxMoffs16 addr
  | .movMemAcc .byte addr => .movMoffs8Al addr
  | .movMemAcc .word addr => .movMoffs16Ax addr
  | .movRmReg .byte dst src => .movRm8R8 dst src
  | .movRmReg .word dst src => .movRm16R16 dst src
  | .movRegRm .byte dst src => .movR8Rm8 dst src
  | .movRegRm .word dst src => .movR16Rm16 dst src
  | .movRmSreg dst src => .movRm16Sreg dst src
  | .movSregRm dst src => .movSregRm16 dst src
  | .movRmImm _ dst (.i8 imm) => .movRm8Imm8 dst imm
  | .movRmImm _ dst (.i16 imm) => .movRm16Imm16 dst imm
  | .lea dst src => .leaR16M dst src
  | .les dst src => .lesR16M32 dst src
  | .lds dst src => .ldsR16M32 dst src
  | .jcc cond rel => jccInstr rel cond
  | .jcxz rel => .jcxz rel
  | .loop .nz rel => .loopnz rel
  | .loop .z rel => .loopz rel
  | .loop .always rel => .loop rel
  | .ret false none => .ret
  | .ret false (some adjust) => .retImm16 adjust
  | .ret true none => .retf
  | .ret true (some adjust) => .retfImm16 adjust
  | .int3 => .int3
  | .int vector => .intImm8 vector
  | .into => .into
  | .inp .byte (.fixed port) => .inAlImm8 port
  | .inp .word (.fixed port) => .inAxImm8 port
  | .inp .byte .dx => .inAlDx
  | .inp .word .dx => .inAxDx
  | .outp .byte (.fixed port) => .outImm8Al port
  | .outp .word (.fixed port) => .outImm8Ax port
  | .outp .byte .dx => .outDxAl
  | .outp .word .dx => .outDxAx
  | .seg .es => .segEs
  | .seg .cs => .segCs
  | .seg .ss => .segSs
  | .seg .ds => .segDs
  | .rep false => .repne
  | .rep true => .rep
  | .simple op => instrOfNoOp op
  | .aam base => .aamImm8 base
  | .aad base => .aadImm8 base

@[simp] theorem instrOf_insnOf (i : Instr) : instrOf (insnOf i).body = i := by
  cases i <;> rfl

/-- Two instructions never emit the same value (R102, D39). -/
theorem insnOf_injective : Function.Injective insnOf :=
  Function.LeftInverse.injective (g := fun v : Insn => instrOf v.body) instrOf_insnOf

/-- Settles O24: one value is one instruction, whose encoding both requests consumed. -/
theorem equalValuesComeFromEqualBytes : Obligations.EqualValuesComeFromEqualBytes := by
  intro fa fa' s s' t t' v h h' hv hv' k hk
  obtain ⟨i, hdec, rfl, _⟩ := exists_decode_of_rsp_ok h hv
  obtain ⟨j, hdec', hij, _⟩ := exists_decode_of_rsp_ok h' hv'
  obtain rfl := insnOf_injective hij
  rw [insnOf_len, ← length_encode] at hk
  rw [beginsWith_encode_of_decode hdec k hk, beginsWith_encode_of_decode hdec' k hk]

/-! ### An answer depends on the consumed bytes only (R96) -/

/-- Another stream with the same bytes of the instruction decodes to it as well. -/
theorem decode_ok_congr {p : BcdPair} {fa : Addr20} {B B' : Nat → Byte} {i : Instr} (h : decode p fa B = .ok i)
    (hB : ∀ k < i.len, B' k = B k) : decode p fa B' = .ok i :=
  decode_encode (wf_of_decode h) fun k hk =>
    (hB k (by rwa [← length_encode])).trans (beginsWith_encode_of_decode h k hk)

/-- The answer of a decode of `B` at `fa` is an instruction, or an error that names `fa` and the first bytes of
`B`. -/
def ErrorNames (fa : Addr20) (B : Nat → Byte) : DecodeResult → Prop
  | .ok _ => True
  | .err e => e.addr = fa ∧ BeginsWith B e.bytes

@[simp] theorem errorNames_ok (fa : Addr20) (B : Nat → Byte) (i : Instr) : ErrorNames fa B (.ok i) := trivial

@[simp] theorem errorNames_unknownOpcode (fa : Addr20) (B : Nat → Byte) : ErrorNames fa B (unknownOpcode fa B) := by
  simp [unknownOpcode, ErrorNames]

@[simp] theorem errorNames_modRMError (kind : DecodeErrorKind) (fa : Addr20) (B : Nat → Byte) :
    ErrorNames fa B (modRMError kind fa B) := by
  simp [modRMError, ErrorNames]

theorem errorNames_familyDecode (p : BcdPair) (fam : Family) (fa : Addr20) (B : Nat → Byte) :
    ErrorNames fa B (familyDecode p fam fa B) := by
  cases fam with
  | movRI => simp only [familyDecode, decodeMovRI]; split <;> exact errorNames_ok ..
  | movAcc => simp only [familyDecode, decodeMovAcc]; split <;> simp
  | movRM => simp only [familyDecode, decodeMovRM]; split <;> simp
  | movSreg =>
    simp only [familyDecode, decodeMovSreg]
    split
    · simp
    · split <;> simp
  | movRMI =>
    simp only [familyDecode, decodeMovRMI]
    split
    · simp
    · split <;> simp
  | ptr =>
    simp only [familyDecode, decodePtr]
    split
    · simp
    · split <;> simp
  | jcc => simp [familyDecode, decodeJcc]
  | loop => simp only [familyDecode, decodeLoop]; split <;> simp
  | ret => simp only [familyDecode, decodeRet]; split <;> simp
  | int => simp only [familyDecode, decodeInt]; split <;> simp
  | io => simp only [familyDecode, decodeIo]; split <;> simp
  | noop =>
    simp only [familyDecode, decodeNoOp]
    split
    · simp
    · split <;> simp

theorem errorNames_decode (p : BcdPair) (fa : Addr20) (B : Nat → Byte) : ErrorNames fa B (decode p fa B) := by
  rw [decode]
  split
  · simp
  · exact errorNames_familyDecode p _ fa B

/-- A decode error is one of the stated ones and names the fetch address and the first bytes (R220-R223). -/
theorem errorWf_of_decode {p : BcdPair} {fa : Addr20} {B : Nat → Byte} {e : DecodeError}
    (h : decode p fa B = .err e) : errorWf p e = true ∧ e.addr = fa ∧ BeginsWith B e.bytes := by
  have hwf := decode_wf p fa B
  have hnames := errorNames_decode p fa B
  rw [h] at hwf hnames
  exact ⟨hwf, hnames⟩

/-- mod = 11 names a register (R98, R100). -/
theorem exists_readRM_eq_regOp {w : Width} {B : Nat → Byte} (h : modField (B 1) = 0b11) :
    ∃ r, (readRM w B).2 = .regOp r := by
  have ha : (modRM (B 1)).addr = .regRef (rmField (B 1)) := by simp [modRM, h]
  exact ⟨regOf w (rmField (B 1)), by simp only [readRM, ha]⟩

/-- The shapes of a stated error: its kind, with the bytes that raise it (R221-R223). -/
theorem errorWf_cases {p : BcdPair} {kind : DecodeErrorKind} {fa : Addr20} {bytes : List Byte}
    (h : errorWf p ⟨kind, fa, bytes⟩ = true) :
    (∃ b0, kind = .unknownOpcode ∧ bytes = [b0] ∧ dispatchMap p b0 = none) ∨
    (∃ b0 b1, kind = .unknownOpcode ∧ bytes = [b0, b1] ∧ (b0 = 0xC6 ∨ b0 = 0xC7) ∧ regField b1 ≠ 0#3) ∨
    (∃ b0 b1, kind = .unknownSubform ∧ bytes = [b0, b1] ∧ (b0 = 0x8C ∨ b0 = 0x8E) ∧
      SReg.ofNum (regField b1) = none) ∨
    (∃ b0 b1, kind = .invalidOperandEncoding ∧ bytes = [b0, b1] ∧ (b0 = 0x8D ∨ b0 = 0xC4 ∨ b0 = 0xC5) ∧
      modField b1 = 0b11) := by
  unfold errorWf at h
  split at h <;> simp_all [or_assoc]

/-- A stated error is what every stream that begins with its bytes decodes to (R221-R223): the analogue of
`decode_encode` for errors. -/
theorem decode_of_errorWf {p : BcdPair} {e : DecodeError} {B : Nat → Byte} (hwf : errorWf p e = true)
    (h : BeginsWith B e.bytes) : decode p e.addr B = .err e := by
  obtain ⟨kind, fa, bytes⟩ := e
  obtain ⟨b0, rfl, rfl, hnone⟩ | ⟨b0, b1, rfl, rfl, hop, hreg⟩ | ⟨b0, b1, rfl, rfl, hop, hreg⟩ |
    ⟨b0, b1, rfl, rfl, hop, hmod⟩ := errorWf_cases hwf
  all_goals simp only [beginsWith_cons, beginsWith_nil, and_true] at h
  · simp [decode, h, hnone, unknownOpcode]
  · rcases hop with rfl | rfl <;>
      simp [decode_of_opcode h.1 rfl, familyDecode, decodeMovRMI, modRMError, h, hreg]
  · rcases hop with rfl | rfl <;>
      simp [decode_of_opcode h.1 rfl, familyDecode, decodeMovSreg, modRMError, h, hreg]
  · obtain ⟨r, hr⟩ := exists_readRM_eq_regOp (w := .word) (B := B) (by rw [h.2, hmod])
    rcases hop with rfl | rfl | rfl <;>
      simp [decode_of_opcode h.1 rfl, familyDecode, decodePtr, modRMError, h, hr]

/-- Another stream with the same reported bytes decodes to the same error. -/
theorem decode_err_congr {p : BcdPair} {fa : Addr20} {B B' : Nat → Byte} {e : DecodeError}
    (h : decode p fa B = .err e) (hB : ∀ k < e.bytes.length, B' k = B k) : decode p fa B' = .err e := by
  obtain ⟨hwf, rfl, hbytes⟩ := errorWf_of_decode h
  exact decode_of_errorWf hwf fun k hk => (hB k hk).trans (hbytes k hk)

/-- Settles O20: the encoding's bytes fix a value, the reported bytes an error. -/
theorem decodeDependsOnlyOnConsumedBytes : Obligations.DecodeDependsOnlyOnConsumedBytes := by
  intro fa s s' t h hpair
  refine ⟨fun v hv hB => ?_, fun e he hB => ?_⟩
  · obtain ⟨i, hdec, rfl, _⟩ := exists_decode_of_rsp_ok h hv
    rw [insnOf_len] at hB
    rw [← hpair] at hdec
    exact decodeRequest_of_decode_ok (decode_ok_congr hdec hB)
  · have hdec := decode_eq_err_of_rsp_err h he
    rw [← hpair] at hdec
    exact decodeRequest_of_decode_err (decode_err_congr hdec hB)

end Sys2Proof.Proofs

/-! Proofs of the statements about data movement (41_data_movement.md): the values the MOV instructions and the
pointer loads emit, their decoding from the bytes at the fetch address, and the reference stage's stores. -/

namespace Sys2Proof.Proofs

open Sys2Proof.Machine Sys2Proof.Laws Sys2Proof.Spec

/-! ### From the bytes at the fetch address to the answer (R92, R220) -/

/-- Every meaning answers its instruction's value (R92, R94). -/
theorem exec_eq_answers (i : Instr) (s : State) : exec i s = answers s (insnOf i).body (insnOf i).len :=
  exec_eq_emit i s

/-- An opcode, and the operand that is read after it, encoded with the reg field that is read there (R60, R100). -/
theorem beginsWith_cons_rmBytes_readRM {B : Nat → Byte} {op : Byte} (w : Width) {reg : BitVec 3} (h0 : B 0 = op)
    (hreg : reg = (readRM w B).1) : BeginsWith B (op :: (readRM w B).2.bytes reg) := by
  subst hreg
  exact beginsWith_cons.2 ⟨h0, readRM_fst w B ▸ beginsWith_rmBytes_readRM w B⟩

/-- Where the first two bytes at the fetch address are those of a stated error, a step answers it (R221-R223). -/
theorem step_of_errorWf {s : State} {kind : DecodeErrorKind}
    (h : errorWf s.bcdPair ⟨kind, s.fetchAddr, [fetched s 0, fetched s 1]⟩ = true) :
    step s = rejects s ⟨kind, s.fetchAddr, [fetched s 0, fetched s 1]⟩ :=
  decodeRequest_of_decode_err (decode_of_errorWf h (by simp [fetched]))

/-! ### MOV of an immediate, MOV between registers and memory (R120-R127) -/

/-- Settles O35: the opcode carries the register's number, and the immediate follows it. -/
theorem movRegImmDecodesFromBytes : Obligations.MovRegImmDecodesFromBytes := by
  refine fun s r => ⟨fun hop => ?_, fun hop => ?_⟩
  · rw [← num_regOf .byte r] at hop
    exact step_eq_exec (decode_movR8Imm8 (width_regOf .byte r) hop)
  · rw [← num_regOf .word r] at hop
    exact step_eq_exec (decode_movR16Imm16 (width_regOf .word r) hop)

/-- An opcode and the word after it, encoded (R42, R67). -/
theorem beginsWith_cons_fetchedWord {s : State} {op : Byte} (hop : opcodeIs s op) :
    BeginsWith (fetched s) (op :: wordBytes (fetchedWord s 1)) := by
  have hword : wordBytes (fetchedWord s 1) = [fetched s 1, fetched s 2] := wordBytes_wordOf _ _
  rw [hword]
  exact beginsWith_cons.2 ⟨hop, by simp⟩

/-- Settles O36: the four encodings are an opcode and the offset word. -/
theorem movAccumulatorDecodesFromBytes : Obligations.MovAccumulatorDecodesFromBytes := fun s =>
  ⟨fun hop => step_of_beginsWith (i := .movAlMoffs8 (fetchedWord s 1)) rfl (beginsWith_cons_fetchedWord hop),
    fun hop => step_of_beginsWith (i := .movAxMoffs16 (fetchedWord s 1)) rfl (beginsWith_cons_fetchedWord hop),
    fun hop => step_of_beginsWith (i := .movMoffs8Al (fetchedWord s 1)) rfl (beginsWith_cons_fetchedWord hop),
    fun hop => step_of_beginsWith (i := .movMoffs16Ax (fetchedWord s 1)) rfl (beginsWith_cons_fetchedWord hop)⟩

/-- Settles O37: the register and the operand that are read are legal, and the bytes begin with their encoding. -/
theorem movRegisterMemoryDecodesFromBytes : Obligations.MovRegisterMemoryDecodesFromBytes := by
  intro s r8 r16
  refine ⟨fun hop => ?_, fun hop => ?_, fun hop => ?_, fun hop => ?_⟩
  · exact step_of_beginsWith (i := .movRm8R8 r8.2 (regOf .byte r8.1)) (by simp [Instr.wf, r8, readRM_wf, width_regOf])
      (beginsWith_cons_rmBytes_readRM .byte hop (num_regOf .byte _))
  · exact step_of_beginsWith (i := .movRm16R16 r16.2 (regOf .word r16.1))
      (by simp [Instr.wf, r16, readRM_wf, width_regOf]) (beginsWith_cons_rmBytes_readRM .word hop (num_regOf .word _))
  · exact step_of_beginsWith (i := .movR8Rm8 (regOf .byte r8.1) r8.2) (by simp [Instr.wf, r8, readRM_wf, width_regOf])
      (beginsWith_cons_rmBytes_readRM .byte hop (num_regOf .byte _))
  · exact step_of_beginsWith (i := .movR16Rm16 (regOf .word r16.1) r16.2)
      (by simp [Instr.wf, r16, readRM_wf, width_regOf]) (beginsWith_cons_rmBytes_readRM .word hop (num_regOf .word _))

/-- Settles O38: a segment register's number is the reg field it was found from; no other reg field has one. -/
theorem movSegmentRegisterDecodesFromBytes : Obligations.MovSegmentRegisterDecodesFromBytes := by
  intro s r
  refine ⟨fun sr hsr => ⟨fun hop => ?_, fun hop => ?_⟩,
    fun hnone (hop : fetched s 0 = 0x8C ∨ fetched s 0 = 0x8E) => step_of_errorWf ?_⟩
  · exact step_of_beginsWith (i := .movRm16Sreg r.2 sr) (readRM_wf .word _)
      (beginsWith_cons_rmBytes_readRM .word hop (num_ofNum hsr))
  · exact step_of_beginsWith (i := .movSregRm16 sr r.2) (readRM_wf .word _)
      (beginsWith_cons_rmBytes_readRM .word hop (num_ofNum hsr))
  · have hreg : SReg.ofNum (regField (fetched s 1)) = none := readRM_fst .word (fetched s) ▸ hnone
    simpa [errorWf, hreg] using hop

/-- An opcode, an operand read with reg field 000 and an immediate after the displacement, encoded (R60, R127). -/
theorem beginsWith_cons_rmBytes_readRM_append {B : Nat → Byte} {op : Byte} {w : Width} {imm : List Byte}
    (h0 : B 0 = op) (hreg : (readRM w B).1 = 0) (himm : BeginsWith (fun k => B (2 + (readRM w B).2.dlen + k)) imm) :
    BeginsWith B (op :: ((readRM w B).2.bytes 0 ++ imm)) :=
  beginsWith_cons_rmBytes_append.2
    ⟨h0, (beginsWith_cons.1 (beginsWith_cons_rmBytes_readRM w h0 hreg.symm)).2, himm⟩

/-- Settles O39: the immediate's bytes follow the operand's; the error needs a reg field other than 000. -/
theorem movImmediateToOperandDecodesFromBytes : Obligations.MovImmediateToOperandDecodesFromBytes := by
  intro s r8 r16
  refine ⟨fun hop hreg => ?_, fun hop hreg => ?_,
    fun (hop : fetched s 0 = 0xC6 ∨ fetched s 0 = 0xC7) hne => step_of_errorWf ?_⟩
  · exact step_of_beginsWith (i := .movRm8Imm8 r8.2 (fetched s (2 + r8.2.dlen))) (readRM_wf .byte _)
      (beginsWith_cons_rmBytes_readRM_append hop hreg (beginsWith_cons.2 ⟨rfl, beginsWith_nil _⟩))
  · exact step_of_beginsWith (i := .movRm16Imm16 r16.2 (fetchedWord s (2 + r16.2.dlen))) (readRM_wf .word _)
      (beginsWith_cons_rmBytes_readRM_append hop hreg
        (beginsWith_wordBytes.2 ⟨(loByte_wordOf _ _).symm, (hiByte_wordOf _ _).symm⟩))
  · have hreg : regField (fetched s 1) ≠ 0 := readRM_fst .byte (fetched s) ▸ hne
    simpa [errorWf] using And.intro hop hreg

/-- Settles O29: every meaning answers its instruction's value. -/
theorem movInstructionsEmitTheirValues : Obligations.MovInstructionsEmitTheirValues := by
  intro s dst src sr rm b w
  and_intros <;> exact exec_eq_answers _ s

/-! ### Pointer loads (R128-R131) -/

/-- Settles O30: every meaning answers its instruction's value. -/
theorem pointerLoadsEmitTheirValues : Obligations.PointerLoadsEmitTheirValues := fun s _ _ =>
  ⟨exec_eq_answers _ s, exec_eq_answers _ s, exec_eq_answers _ s⟩

/-- A memory operand that is read is legal, and the bytes begin with its encoding after the opcode (R100, R101). -/
theorem wf_and_beginsWith_of_readRM_mem {B : Nat → Byte} {op : Byte} {m : Mem} (h0 : B 0 = op)
    (hm : (readRM .word B).2 = .memOp m) :
    m.wf = true ∧ BeginsWith B (op :: m.bytes (regOf .word (readRM .word B).1).num) := by
  have hwf : (readRM .word B).2.wf .word = true := readRM_wf .word B
  have hbytes := beginsWith_cons_rmBytes_readRM .word h0 (num_regOf .word (readRM .word B).1)
  rw [hm] at hwf hbytes
  exact ⟨hwf, hbytes⟩

/-- Settles O40: a memory operand's bytes follow the opcode; a register operand means mod = 11. -/
theorem pointerLoadsDecodeFromBytes : Obligations.PointerLoadsDecodeFromBytes := by
  intro s r
  refine ⟨fun m hm => ⟨fun hop => ?_, fun hop => ?_, fun hop => ?_⟩,
    fun g hg (hop : fetched s 0 = 0x8D ∨ fetched s 0 = 0xC4 ∨ fetched s 0 = 0xC5) => step_of_errorWf ?_⟩
  · obtain ⟨hwf, hbytes⟩ := wf_and_beginsWith_of_readRM_mem hop hm
    exact step_of_beginsWith (i := .leaR16M (regOf .word r.1) m) (by simp [Instr.wf, width_regOf, hwf]) hbytes
  · obtain ⟨hwf, hbytes⟩ := wf_and_beginsWith_of_readRM_mem hop hm
    exact step_of_beginsWith (i := .lesR16M32 (regOf .word r.1) m) (by simp [Instr.wf, width_regOf, hwf]) hbytes
  · obtain ⟨hwf, hbytes⟩ := wf_and_beginsWith_of_readRM_mem hop hm
    exact step_of_beginsWith (i := .ldsR16M32 (regOf .word r.1) m) (by simp [Instr.wf, width_regOf, hwf]) hbytes
  · have hmod : modField (fetched s 1) = 0b11 := modField_of_readRM_regOp hg
    simpa [errorWf, hmod, or_assoc] using hop

/-! ### The reference stage's stores (R122, R123, R125, R127) -/

/-- From stage `t` to stage `u` one byte has been stored, the prefixes have been spent, and nothing else has changed. -/
def StoresByte (t u : StageState) (a : Addr20) (v : Byte) : Prop :=
  u.core.memRead8 a = v ∧ (∀ c, c ≠ a → u.core.memRead8 c = t.core.memRead8 c) ∧ onlyMemoryAndPrefixesChange t u

/-- From stage `t` to stage `u` one word has been stored, the prefixes have been spent, and nothing else has changed. -/
def StoresWord (t u : StageState) (a : Addr20) (v : Word) : Prop :=
  u.core.memRead16 a = v ∧ (∀ c, c ≠ a → c ≠ a + 1 → u.core.memRead8 c = t.core.memRead8 c) ∧
    onlyMemoryAndPrefixesChange t u

/-- An instruction whose whole effect is a byte store at `a` stores the value's low byte (R43, assumption 14). -/
theorem storesByte_done_writeMem (t : StageState) (a : Addr20) (v : Word) :
    StoresByte t (t.done (t.core.writeMem .byte a v)) a (loByte v) :=
  ⟨memRead8_memWrite8_self t.core a (loByte v), fun _ => memRead8_memWrite8_of_ne t.core (loByte v), rfl⟩

/-- The same, of a byte that the stage carries zero-extended (R22, R67). -/
theorem storesByte_done_writeMem_setWidth (t : StageState) (a : Addr20) (b : Byte) :
    StoresByte t (t.done (t.core.writeMem .byte a (b.setWidth 16))) a b := by
  have h := storesByte_done_writeMem t a (b.setWidth 16)
  rwa [loByte_setWidth] at h

/-- An instruction whose whole effect is a word store at `a` stores that word (R44, assumption 14). -/
theorem storesWord_done_writeMem (t : StageState) (a : Addr20) (v : Word) :
    StoresWord t (t.done (t.core.writeMem .word a v)) a v :=
  ⟨memRead16_memWrite16_self t.core a v, fun _ => memRead8_memWrite16_of_ne t.core v, rfl⟩

/-- Settles O56: each MOV to memory is one `writeMem` at its operand's address, and `done`. -/
theorem stageMovStoresAtOperandAddressOnly : Obligations.StageMovStoresAtOperandAddressOnly := by
  intro t m src sr addr imm b s operand direct
  simp only [List.forall_mem_cons, List.not_mem_nil, false_implies, implies_true, and_true]
  refine ⟨⟨?_, ?_, ?_⟩, ?_, ?_, ?_, ?_⟩
  · exact storesByte_done_writeMem t operand (s.getReg src)
  · exact storesByte_done_writeMem_setWidth t operand b
  · exact storesByte_done_writeMem_setWidth t direct (loByte s.ax)
  · exact storesWord_done_writeMem t operand (s.getReg src)
  · exact storesWord_done_writeMem t operand imm
  · exact storesWord_done_writeMem t operand (s.getSReg sr)
  · exact storesWord_done_writeMem t direct s.ax

end Sys2Proof.Proofs

/-! Proofs of the statements about control transfer (42_control_transfer.md): the values the jumps, loops and returns
emit, their decoding from the bytes at the fetch address, and the reference stage's branches. -/

namespace Sys2Proof.Proofs

open Sys2Proof.Machine Sys2Proof.Laws Sys2Proof.Spec

/-- The sixteen conditions in the order of their indexes (R140). -/
def conds : List Cond := [.o, .no, .b, .ae, .e, .ne, .be, .a, .s, .ns, .p, .np, .l, .ge, .le, .g]

theorem conds_get_eq_ofIndex (n : Fin 16) : conds.get n = .ofIndex n.val := by
  fin_cases n <;> rfl

/-! ### The bytes at the fetch address (R92, R93) -/

/-- An opcode alone, encoded. -/
theorem beginsWith_opcode {s : State} {op : Byte} (hop : opcodeIs s op) : BeginsWith (fetched s) [op] :=
  beginsWith_cons.2 ⟨hop, beginsWith_nil _⟩

/-- An opcode and the byte after it, encoded (R67). -/
theorem beginsWith_opcode_fetched {s : State} {op : Byte} (hop : opcodeIs s op) :
    BeginsWith (fetched s) [op, fetched s 1] :=
  beginsWith_cons.2 ⟨hop, beginsWith_cons.2 ⟨rfl, beginsWith_nil _⟩⟩

/-! ### Conditional jumps (R140, R141) -/

theorem wf_jccInstr (p : BcdPair) (rel : Byte) (c : Cond) : (jccInstr rel c).wf p = true := by
  cases c <;> rfl

theorem insnOf_jccInstr (rel : Byte) (c : Cond) : insnOf (jccInstr rel c) = ⟨.jcc c rel, 2⟩ := by
  cases c <;> rfl

/-- Settles O41: the opcode carries the condition's index, and the displacement follows it. -/
theorem conditionalJumpsDecodeFromBytes : Obligations.ConditionalJumpsDecodeFromBytes := by
  intro s n hop
  have hbytes : BeginsWith (fetched s) (encode (jccInstr (fetched s 1) (.ofIndex n.val))) :=
    encode_jccInstr_ofIndex (fetched s 1) n ▸ beginsWith_opcode_fetched hop
  have hstep := step_of_beginsWith (wf_jccInstr s.bcdPair (fetched s 1) (.ofIndex n.val)) hbytes
  rwa [insnOf_jccInstr, ← conds_get_eq_ofIndex] at hstep

/-- A relative branch, taken or not, changes IP only (R149). -/
theorem ite_setIp_branchTarget (s : State) (rel : Byte) (P : Prop) [Decidable P] :
    (if P then s.setIp (branchTarget s.ip rel) else s) =
      { s with ip := if P then s.ip + rel.signExtend 16 else s.ip } := by
  by_cases h : P
  · simp only [if_pos h, State.setIp, branchTarget]
  · simp only [if_neg h]

/-- An executed conditional jump branches on its condition's test of FLAGS (R140, R141, R149). -/
theorem execute_jcc_core (t : StageState) (c : Cond) (rel : Byte) :
    (t.execute ⟨.jcc c rel, 2⟩).core =
      { t.core with ip := if condHolds c t.core.flags then t.core.ip + rel.signExtend 16 else t.core.ip } :=
  ite_setIp_branchTarget t.core rel (condHolds c t.core.flags)

/-- Settles O54: the statement's table is the sixteen conditions, each beside its test. -/
theorem stageConditionalJumpBranchesOnItsTest : Obligations.StageConditionalJumpBranchesOnItsTest := by
  intro t rel cf zf sf ovf pf tests x hx
  have htests : tests = conds.map fun c => (c, condHolds c t.core.flags) := rfl
  rw [htests] at hx
  obtain ⟨c, -, rfl⟩ := List.mem_map.1 hx
  exact execute_jcc_core t c rel

/-! ### Loops and returns (R142-R148) -/

/-- Settles O31: every meaning answers its instruction's value. -/
theorem controlTransfersEmitTheirValues : Obligations.ControlTransfersEmitTheirValues := by
  intro s r a
  and_intros <;> exact exec_eq_answers _ s

/-- Settles O42: each encoding is an opcode, with the displacement byte or the adjust word where it has one. -/
theorem loopsAndReturnsDecodeFromBytes : Obligations.LoopsAndReturnsDecodeFromBytes := by
  refine fun s => ⟨fun hop => ?_, fun hop => ?_, fun hop => ?_, fun hop => ?_,
    fun hop => ?_, fun hop => ?_, fun hop => ?_, fun hop => ?_⟩
  · exact step_of_beginsWith (i := .loopnz (fetched s 1)) rfl (beginsWith_opcode_fetched hop)
  · exact step_of_beginsWith (i := .loopz (fetched s 1)) rfl (beginsWith_opcode_fetched hop)
  · exact step_of_beginsWith (i := .loop (fetched s 1)) rfl (beginsWith_opcode_fetched hop)
  · exact step_of_beginsWith (i := .jcxz (fetched s 1)) rfl (beginsWith_opcode_fetched hop)
  · exact step_of_beginsWith (i := .ret) rfl (beginsWith_opcode hop)
  · exact step_of_beginsWith (i := .retImm16 (fetchedWord s 1)) rfl (beginsWith_cons_fetchedWord hop)
  · exact step_of_beginsWith (i := .retf) rfl (beginsWith_opcode hop)
  · exact step_of_beginsWith (i := .retfImm16 (fetchedWord s 1)) rfl (beginsWith_cons_fetchedWord hop)

/-- What a loop condition asks of FLAGS beside the count (R142, R143). -/
def loopFlagTest (c : LoopCond) (flags : Word) : Bool :=
  match c with
  | .nz => !flagGet flags .zf
  | .z => flagGet flags .zf
  | .always => true

/-- A loop goes on while the count is not 0 and its condition holds of FLAGS (R142). -/
theorem loopCondHolds_iff (c : LoopCond) (count flags : Word) :
    loopCondHolds c count flags = true ↔ count ≠ 0 ∧ loopFlagTest c flags = true := by
  cases c <;> simp [loopCondHolds, loopFlagTest]

/-- An executed LOOPcc counts CX down, and branches on the new count and FLAGS (R142, R143, R149). -/
theorem execute_loop_core (t : StageState) (c : LoopCond) (rel : Byte) :
    (t.execute ⟨.loop c rel, 2⟩).core =
      { t.core with
        cx := t.core.cx - 1
        ip := if t.core.cx - 1 ≠ 0 ∧ loopFlagTest c t.core.flags = true then t.core.ip + rel.signExtend 16
          else t.core.ip } := by
  simp only [← loopCondHolds_iff]
  exact ite_setIp_branchTarget (t.core.setReg .cx (t.core.cx - 1)) rel
    (loopCondHolds c (t.core.cx - 1) t.core.flags)

/-- Settles O55: the statement's table is the three loop conditions, each beside its test of FLAGS; JCXZ is a branch
on CX = 0. -/
theorem stageLoopsCountDownAndBranch : Obligations.StageLoopsCountDownAndBranch := by
  intro t rel n zf target
  refine ⟨fun x hx => ?_, ite_setIp_branchTarget t.core rel (t.core.cx = 0)⟩
  have htests : [(LoopCond.nz, !zf), (.z, zf), (.always, true)] =
      [.nz, .z, .always].map fun c => (c, loopFlagTest c t.core.flags) := rfl
  rw [htests] at hx
  obtain ⟨c, -, rfl⟩ := List.mem_map.1 hx
  exact execute_loop_core t c rel

end Sys2Proof.Proofs

/-! Proofs of the statements about software interrupts and ports (43_software_interrupts.md, 44_io.md): an interrupt
undone by its return in the reference stage, the values emitted, and their decoding from the bytes at the fetch
address. -/

namespace Sys2Proof.Proofs

open Sys2Proof.Machine Sys2Proof.Laws Sys2Proof.Spec

/-! ### An interrupt and its return (R161, R207) -/

/-- A push leaves the words that are on the stack, near its top, as they were (R47). -/
theorem memRead16_push_stack (s : State) (v : Word) {i : Nat} (hi : i ≤ 9) :
    (s.push v).memRead16 (PA s.ss (s.sp + BitVec.ofNat 16 (2 * i))) =
      s.memRead16 (PA s.ss (s.sp + BitVec.ofNat 16 (2 * i))) := by
  have h := memRead16_memWrite16_stack { s with sp := s.sp - 2 } s.ss (s.sp + BitVec.ofNat 16 (2 * i)) 0 (i + 1)
    (by omega) (by omega) v
  have hread : s.sp + BitVec.ofNat 16 (2 * i) - BitVec.ofNat 16 (2 * 0) = s.sp + BitVec.ofNat 16 (2 * i) :=
    BitVec.sub_zero _
  have hwrite : s.sp + BitVec.ofNat 16 (2 * i) - BitVec.ofNat 16 (2 * (i + 1)) = s.sp - 2 := by bv_omega
  rw [hread, hwrite] at h
  exact h

theorem memRead16_push_top (s : State) (v : Word) :
    (s.push v).memRead16 (PA s.ss s.sp) = s.memRead16 (PA s.ss s.sp) := by
  simpa using memRead16_push_stack s v (Nat.zero_le 9)

theorem memRead16_push_second (s : State) (v : Word) :
    (s.push v).memRead16 (PA s.ss (s.sp + 2)) = s.memRead16 (PA s.ss (s.sp + 2)) :=
  memRead16_push_stack s v (i := 1) (by decide)

/-- The three pushes of an interrupt leave IP on top of the stack (R161). -/
theorem memRead16_pushedForInterrupt_ip (s : State) :
    (pushedForInterrupt s).memRead16 (PA s.ss (s.sp - 2 - 2 - 2)) = s.ip :=
  memRead16_push_self ((s.push s.flags).push s.cs) s.ip

/-- CS is the next word under IP. -/
theorem memRead16_pushedForInterrupt_cs (s : State) :
    (pushedForInterrupt s).memRead16 (PA s.ss (s.sp - 2 - 2)) = s.cs :=
  (memRead16_push_top ((s.push s.flags).push s.cs) s.ip).trans (memRead16_push_self (s.push s.flags) s.cs)

/-- FLAGS is the next word under CS. -/
theorem memRead16_pushedForInterrupt_flags (s : State) :
    (pushedForInterrupt s).memRead16 (PA s.ss (s.sp - 2)) = s.flags := by
  have hsecond := memRead16_push_second ((s.push s.flags).push s.cs) s.ip
  have htop := memRead16_push_top (s.push s.flags) s.cs
  simp only [push_ss, push_sp, BitVec.sub_add_cancel] at hsecond htop
  exact hsecond.trans (htop.trans (memRead16_push_self s s.flags))

theorem memRead8_pushedForInterrupt_of_ne (s : State) {a : Addr20}
    (h : ∀ off ∈ [s.sp - 2, s.sp - 2 - 2, s.sp - 2 - 2 - 2], a ≠ PA s.ss off ∧ a ≠ PA s.ss off + 1) :
    (pushedForInterrupt s).memRead8 a = s.memRead8 a := by
  simp only [List.forall_mem_cons, List.not_mem_nil, false_implies, implies_true, and_true] at h
  obtain ⟨⟨hflags, hflags'⟩, ⟨hcs, hcs'⟩, hip, hip'⟩ := h
  calc (pushedForInterrupt s).memRead8 a
      = ((s.push s.flags).push s.cs).memRead8 a := memRead8_push_of_ne _ s.ip hip hip'
    _ = (s.push s.flags).memRead8 a := memRead8_push_of_ne _ s.cs hcs hcs'
    _ = s.memRead8 a := memRead8_push_of_ne s s.flags hflags hflags'

/-- The return pops the three words that the interrupt pushed, so only memory differs (R161, R207). -/
theorem interruptReturn_interrupt (s : State) (vector : Byte) :
    (s.interrupt vector).interruptReturn = { s with mem := (pushedForInterrupt s).mem } := by
  have hread : ∀ a, (s.interrupt vector).memRead16 a = (pushedForInterrupt s).memRead16 a := memRead16_congr rfl
  rw [interruptReturn_eq]
  simp only [hread]
  simp only [interrupt_eq, BitVec.sub_add_cancel, memRead16_pushedForInterrupt_ip, memRead16_pushedForInterrupt_cs,
    memRead16_pushedForInterrupt_flags]

/-- Settles O57: the return restores every field but memory, which the three pushes alone have written. -/
theorem stageInterruptReturnUndoesInterrupt : Obligations.StageInterruptReturnUndoesInterrupt := by
  intro s vector t
  have ht : t = { s with mem := (pushedForInterrupt s).mem } := interruptReturn_interrupt s vector
  refine ⟨by rw [ht], fun a ha => ?_⟩
  have hfour : s.sp - 4 = s.sp - 2 - 2 := by bv_omega
  have hsix : s.sp - 6 = s.sp - 2 - 2 - 2 := by bv_omega
  rw [hfour, hsix] at ha
  rw [ht]
  exact memRead8_pushedForInterrupt_of_ne s ha

/-! ### The values and their bytes (R160-R162, R170-R177) -/

/-- Settles O32: every meaning answers its instruction's value. -/
theorem interruptAndPortInstructionsEmitTheirValues : Obligations.InterruptAndPortInstructionsEmitTheirValues := by
  intro s b
  and_intros <;> exact exec_eq_answers _ s

/-- Settles O43: each encoding is an opcode, with the vector or the port byte where it has one. -/
theorem interruptAndPortInstructionsDecodeFromBytes : Obligations.InterruptAndPortInstructionsDecodeFromBytes := by
  refine fun s => ⟨fun hop => ?_, fun hop => ?_, fun hop => ?_, fun hop => ?_, fun hop => ?_, fun hop => ?_,
    fun hop => ?_, fun hop => ?_, fun hop => ?_, fun hop => ?_, fun hop => ?_⟩
  · exact step_of_beginsWith (i := .int3) rfl (beginsWith_opcode hop)
  · exact step_of_beginsWith (i := .intImm8 (fetched s 1)) rfl (beginsWith_opcode_fetched hop)
  · exact step_of_beginsWith (i := .into) rfl (beginsWith_opcode hop)
  · exact step_of_beginsWith (i := .inAlImm8 (fetched s 1)) rfl (beginsWith_opcode_fetched hop)
  · exact step_of_beginsWith (i := .inAxImm8 (fetched s 1)) rfl (beginsWith_opcode_fetched hop)
  · exact step_of_beginsWith (i := .outImm8Al (fetched s 1)) rfl (beginsWith_opcode_fetched hop)
  · exact step_of_beginsWith (i := .outImm8Ax (fetched s 1)) rfl (beginsWith_opcode_fetched hop)
  · exact step_of_beginsWith (i := .inAlDx) rfl (beginsWith_opcode hop)
  · exact step_of_beginsWith (i := .inAxDx) rfl (beginsWith_opcode hop)
  · exact step_of_beginsWith (i := .outDxAl) rfl (beginsWith_opcode hop)
  · exact step_of_beginsWith (i := .outDxAx) rfl (beginsWith_opcode hop)

end Sys2Proof.Proofs

/-! Proofs of the statements about the flag, prefix and no-operand group (45_flag_prefix.md): the values emitted, and
their decoding from the bytes at the fetch address under each `BCD_PAIR`. -/

namespace Sys2Proof.Proofs

open Sys2Proof.Machine Sys2Proof.Laws Sys2Proof.Spec

/-- Settles O33: every meaning answers its instruction's value. -/
theorem flagAndPrefixInstructionsEmitTheirValues : Obligations.FlagAndPrefixInstructionsEmitTheirValues := by
  intro s b
  and_intros <;> exact exec_eq_answers _ s

/-- The no-operand bytes that do not depend on `BCD_PAIR`, with the value each answers (R180-R183, R190-R211). -/
def noOpBytes : List (Byte × NoOp) :=
  [(0xF4, .hlt), (0x90, .nop), (0x9B, .wait), (0xF0, .lock), (0xF9, .stc), (0xF8, .clc), (0xF5, .cmc), (0xFD, .std),
    (0xFC, .cld), (0xFB, .sti), (0xFA, .cli), (0x98, .cbw), (0x99, .cwd), (0x9F, .lahf), (0x9E, .sahf), (0x9C, .pushf),
    (0x9D, .popf), (0xCF, .iret), (0xD7, .xlat)]

theorem encode_instrOfNoOp_of_mem : ∀ x ∈ noOpBytes, encode (instrOfNoOp x.2) = [x.1] := by decide

/-- None of these bytes waits on `BCD_PAIR` (R71). -/
theorem wf_instrOfNoOp_of_mem (p : BcdPair) : ∀ x ∈ noOpBytes, (instrOfNoOp x.2).wf p = true := by
  cases p <;> decide

theorem insnOf_instrOfNoOp (op : NoOp) : insnOf (instrOfNoOp op) = ⟨.simple op, 1⟩ := by
  cases op <;> rfl

/-- Where the byte of a no-operand instruction that `BCD_PAIR` allows stands at the fetch address, a step answers that
instruction's value (R71, R92). -/
theorem step_of_encode_instrOfNoOp {s : State} {op : NoOp} {b : Byte} (henc : encode (instrOfNoOp op) = [b])
    (hwf : (instrOfNoOp op).wf s.bcdPair = true) (hop : opcodeIs s b) : step s = answers s (.simple op) 1 := by
  have hstep := step_of_beginsWith hwf (henc ▸ beginsWith_opcode hop)
  rwa [insnOf_instrOfNoOp] at hstep

/-- Settles O44: the statement's table is `noOpBytes`; AAM and AAD carry their base in the next byte, and each BCD pair
is legal under its own value of `BCD_PAIR`. -/
theorem noOperandInstructionsDecodeFromBytes : Obligations.NoOperandInstructionsDecodeFromBytes := by
  refine fun s => ⟨fun x (hx : x ∈ noOpBytes) hop => ?_, fun hop => ?_, fun hop => ?_,
    fun hascii => ⟨fun hop => ?_, fun hop => ?_⟩, fun hdecimal => ⟨fun hop => ?_, fun hop => ?_⟩⟩
  · exact step_of_encode_instrOfNoOp (encode_instrOfNoOp_of_mem x hx) (wf_instrOfNoOp_of_mem s.bcdPair x hx) hop
  · exact step_of_beginsWith (i := .aamImm8 (fetched s 1)) rfl (beginsWith_opcode_fetched hop)
  · exact step_of_beginsWith (i := .aadImm8 (fetched s 1)) rfl (beginsWith_opcode_fetched hop)
  · exact step_of_encode_instrOfNoOp (op := .aaa) rfl (decide_eq_true hascii) hop
  · exact step_of_encode_instrOfNoOp (op := .aas) rfl (decide_eq_true hascii) hop
  · exact step_of_encode_instrOfNoOp (op := .daa) rfl (decide_eq_true hdecimal) hop
  · exact step_of_encode_instrOfNoOp (op := .das) rfl (decide_eq_true hdecimal) hop

end Sys2Proof.Proofs

/-! Proofs of the statements about exceptions (60_exceptions.md): the decode errors are exactly the stated ones and
change no state, no run faults or is refused, and the reference stage's step is a decode and then an execution. -/

namespace Sys2Proof.Proofs

open Sys2Proof.Machine Sys2Proof.Laws Sys2Proof.Spec

/-! ### The stated errors are the decoder's errors (R220-R223) -/

/-- The bytes of R70's list are the bytes without a family. -/
theorem unknownByte_iff {p : BcdPair} {b : Byte} : unknownByte p b = true ↔ dispatchMap p b = none := by
  refine ⟨dispatchMap_eq_none_of_unknownByte, ?_⟩
  cases p <;> revert b <;> decide

/-- A reg field other than 000, as an integer (R127, R221). -/
theorem regField_ne_zero_iff {m : Byte} : regField m ≠ 0#3 ↔ m.toNat / 8 % 8 ≠ 0 := by
  rw [← toNat_regField, ne_eq, ne_eq, BitVec.toNat_eq, BitVec.toNat_ofNat]

/-- A reg field from 4 to 7 names no segment register (R63, R222). -/
theorem ofNum_regField_eq_none_iff {m : Byte} : SReg.ofNum (regField m) = none ↔ 4 ≤ m.toNat / 8 % 8 := by
  rw [← toNat_regField]
  generalize regField m = n
  revert n; decide

/-- mod = 11, as an integer (R98, R223). -/
theorem modField_eq_three_iff {m : Byte} : modField m = 0b11 ↔ m.toNat / 64 = 3 := by
  rw [← toNat_modField, BitVec.toNat_eq]; rfl

/-- The opcodes whose ModR/M byte can be in error have a family, so they are not in R70's list. -/
theorem unknownByte_eq_false_of_mem (p : BcdPair) :
    ∀ b ∈ ([0xC6, 0xC7, 0x8C, 0x8E, 0x8D, 0xC4, 0xC5] : List Byte), unknownByte p b = false := by
  cases p <;> decide

/-- What the spec's table names for the first two bytes is a legal error that names those bytes. -/
theorem errorWf_of_errorOf {p : BcdPair} {fa : Addr20} {B : Nat → Byte} {e : DecodeError}
    (h : errorOf p fa (B 0) (B 1) = some e) : errorWf p e = true ∧ e.addr = fa ∧ BeginsWith B e.bytes := by
  unfold errorOf at h
  split_ifs at h with hunknown hreg hsub hmod <;> obtain rfl := Option.some.inj h
  · simp [errorWf, unknownByte_iff.1 hunknown]
  · simpa [errorWf] using And.imp_right regField_ne_zero_iff.2 hreg
  · simpa [errorWf] using And.imp_right ofNum_regField_eq_none_iff.2 hsub
  · simpa [errorWf, or_assoc] using And.imp_right modField_eq_three_iff.2 hmod

/-- A legal error is the one that the spec's table names for every stream that begins with its bytes. -/
theorem errorOf_of_errorWf {p : BcdPair} {e : DecodeError} {B : Nat → Byte} (hwf : errorWf p e = true)
    (h : BeginsWith B e.bytes) : errorOf p e.addr (B 0) (B 1) = some e := by
  obtain ⟨kind, fa, bytes⟩ := e
  obtain ⟨b0, rfl, rfl, hnone⟩ | ⟨b0, b1, rfl, rfl, hop, hreg⟩ | ⟨b0, b1, rfl, rfl, hop, hreg⟩ |
    ⟨b0, b1, rfl, rfl, hop, hmod⟩ := errorWf_cases hwf
  all_goals simp only [beginsWith_cons, beginsWith_nil, and_true] at h
  · simp [errorOf, h, unknownByte_iff.2 hnone]
  · rw [regField_ne_zero_iff] at hreg
    rcases hop with rfl | rfl <;> simp [errorOf, h, hreg, unknownByte_eq_false_of_mem]
  · rw [ofNum_regField_eq_none_iff] at hreg
    rcases hop with rfl | rfl <;> simp [errorOf, h, hreg, unknownByte_eq_false_of_mem]
  · rw [modField_eq_three_iff] at hmod
    rcases hop with rfl | rfl | rfl <;> simp [errorOf, h, hmod, unknownByte_eq_false_of_mem]

/-- A decode fails with `e` exactly where the spec's table names `e` for the first two bytes. -/
theorem decode_eq_err_iff {p : BcdPair} {fa : Addr20} {B : Nat → Byte} {e : DecodeError} :
    decode p fa B = .err e ↔ errorOf p fa (B 0) (B 1) = some e := by
  constructor <;> intro h
  · obtain ⟨hwf, rfl, hbytes⟩ := errorWf_of_decode h
    exact errorOf_of_errorWf hwf hbytes
  · obtain ⟨hwf, rfl, hbytes⟩ := errorWf_of_errorOf h
    exact decode_of_errorWf hwf hbytes

/-- Settles O12: where the table names an error the decode fails with it, and where it names none the decode cannot
fail. -/
theorem errorsAreExactlyTheStatedOnes : Obligations.ErrorsAreExactlyTheStatedOnes := by
  intro fa s
  split
  next e he => exact decodeRequest_of_decode_err (decode_eq_err_iff.2 he)
  next hnone =>
    cases hdec : decode s.bcdPair fa (s.fetchByte fa) with
    | ok i => exact ⟨insnOf i, decodeRequest_of_decode_ok hdec⟩
    | err e => simp [decode_eq_err_iff.1 hdec] at hnone

/-! ### What an error leaves (R224), and what no run does (R225) -/

/-- Settles O13: the answer is a rejection with the decode's error, which names the fetch address. -/
theorem decodeErrorChangesNoState : Obligations.DecodeErrorChangesNoState := by
  intro fa s t e h he
  have hdec := decode_eq_err_of_rsp_err h he
  obtain rfl := Host.Outcome.next.inj ((decodeRequest_of_decode_err hdec).symm.trans h)
  exact ⟨rfl, (errorWf_of_decode hdec).2.1, fun _ => rfl⟩

/-- Every action of every agent ends in a next state: a decode request is always answered, and the other agents'
operations are total (R32, R45, R46, R97). -/
theorem exists_act_eq_next (x : Action) (s : State) : ∃ t, act x s = .next t := by
  cases x with
  | decodeAt fa => exact ⟨_, decodeRequest_eq_answered fa s⟩
  | decodeNext => exact ⟨_, step_eq_answered s⟩
  | load | push | pop | writeReg | writeSReg | writeIp | writeFlags | writeFlag | writeMem8 | writeMem16 =>
    exact ⟨_, rfl⟩

/-- Settles O52: by induction on the run, each action leading to a state from which the rest is run. -/
theorem noRunFaultsOrIsRefused : Obligations.NoRunFaultsOrIsRefused := by
  intro xs
  induction xs with
  | nil => exact fun s => ⟨s, rfl⟩
  | cons x xs ih =>
    intro s
    obtain ⟨t, ht⟩ := exists_act_eq_next x s
    obtain ⟨u, hu⟩ := ih t
    exact ⟨u, by rw [runActions, ht]; exact hu⟩

/-! ### The reference stage's step (R229, R259, R260) -/

/-- Settles O58: a stage that is not halted goes by the answer of its core's step. -/
theorem stageStepIsDecodeThenExecute : Obligations.StageStepIsDecodeThenExecute := by
  refine fun t hrun => ⟨fun s v hstep hv => ?_, fun s e hstep he => ?_⟩
  · simp [StageState.step, hrun, hstep, hv]
  · simp [StageState.step, hrun, hstep, he]

end Sys2Proof.Proofs

/-! Proofs of the statements about reset and hazards (70_reset_and_hazards.md): what construction leaves, what the
loader writes, and the first step after both. -/

namespace Sys2Proof.Proofs

open Sys2Proof.Machine Sys2Proof.Laws

/-! ### Construction (R33, R250) -/

/-- No byte has been written at construction, so each reads as its `MEM_INIT` byte. -/
theorem memRead8_reset (a : Addr20) : State.reset.memRead8 a = Config.memInit a := rfl

/-- Every bit of a zero FLAGS word is clear (R28). -/
theorem getFlag_reset (f : Flag) : State.reset.getFlag f = false := BitVec.getLsbD_zero

/-- Settles O1: the registers are the fields of `State.reset`; the flags and the memory follow from them. -/
theorem constructionLeavesZeroRegistersAndMemInit : Obligations.ConstructionLeavesZeroRegistersAndMemInit :=
  ⟨rfl, rfl, rfl, rfl, rfl, rfl, rfl, rfl, rfl, rfl, rfl, rfl, rfl, rfl, getFlag_reset, memRead8_reset⟩

/-! ### The loader (R251) -/

/-- A loaded image no longer than memory is read back byte for byte from the load point. -/
theorem memRead8_load (s : State) (seg off : Word) {image : List Byte} (hlen : image.length ≤ 2 ^ 20) (i : Nat)
    (hi : i < image.length) : (s.load seg off image).memRead8 (PA seg off + BitVec.ofNat 20 i) = image[i] :=
  memRead8_storeBytes s (PA seg off) image hlen i hi

/-- Settles O47: the image reads back, every byte outside it reads as before, and the rest is the loader's frame. -/
theorem loaderPlacesImageAndSetsEntry : Obligations.LoaderPlacesImageAndSetsEntry :=
  ⟨rfl, rfl, fun s seg off image hlen =>
    ⟨memRead8_load s seg off hlen, fun _ => memRead8_load_of_ne s, load_frame s seg off image⟩⟩

/-! ### The first decode after a load (R252) -/

/-- The load point is the address of the next fetch: the loader sets CS and IP to it. -/
@[simp] theorem fetchAddr_load (s : State) (seg off : Word) (image : List Byte) :
    (s.load seg off image).fetchAddr = PA seg off := rfl

/-- A loaded image is the instruction bytes read from the load point (R93, R251). -/
theorem beginsWith_fetchByte_load (s : State) (seg off : Word) {image : List Byte} (hlen : image.length ≤ 2 ^ 20) :
    BeginsWith ((s.load seg off image).fetchByte (PA seg off)) image :=
  beginsWith_fetchByte_storeBytes s (PA seg off) hlen

/-- From any state and any load point, the step after a load runs the instruction whose encoding the image begins
with. -/
theorem step_load_eq_exec (s : State) (seg off : Word) {i : Instr} {rest : List Byte} (hwf : i.wf s.bcdPair = true)
    (hlen : (encode i ++ rest).length ≤ 2 ^ 20) :
    step (s.load seg off (encode i ++ rest)) = exec i (s.load seg off (encode i ++ rest)) := by
  have himage := beginsWith_fetchByte_load s seg off hlen
  have hhead := (beginsWith_append.1 himage).1
  apply step_eq_exec
  rw [load_bcdPair, fetchAddr_load]
  exact decode_encode hwf hhead

/-- Settles O48: `step_load_eq_exec` at construction, whose BCD pair is the ASCII one. -/
theorem firstDecodeAfterDefaultLoadRunsImageHead : Obligations.FirstDecodeAfterDefaultLoadRunsImageHead :=
  fun _ _ hwf hlen => ⟨rfl, step_load_eq_exec State.reset Config.loadSeg Config.loadOff hwf hlen⟩

end Sys2Proof.Proofs

/-! Proofs of the statement about the words written out in the spec's test vectors (95_test_vectors.md). -/

namespace Sys2Proof.Proofs

/-- The byte stream of a well-formed instruction's encoding decodes to that instruction. -/
theorem decode_listByte_of_eq_encode {p : BcdPair} {fa : Addr20} {i : Instr} {l : List Byte} (hwf : i.wf p = true)
    (hl : l = encode i) : decode p fa (listByte l) = .ok i :=
  decode_encode hwf fun _ _ => congrArg (listByte · _) hl

/-- Settles O28: each word is the encoding of its instruction, which is well formed under the word's BCD pair. -/
theorem writtenOutWordsDecode : Obligations.WrittenOutWordsDecode :=
  ⟨decode_listByte_of_eq_encode rfl rfl, decode_listByte_of_eq_encode rfl rfl, decode_listByte_of_eq_encode rfl rfl,
    decode_listByte_of_eq_encode rfl rfl, decode_listByte_of_eq_encode rfl rfl, decode_listByte_of_eq_encode rfl rfl⟩

end Sys2Proof.Proofs
